-- ==== Sys2Proof/Config.lean ====
section
/-! DEFINITION. What is fixed for the block (the named constants of R9) and the values its environment leaves free. -/

namespace Sys2Proof.Config

/-- R9 `ADDR_BYTES`: address width in bytes. -/
abbrev addrBytes : Nat := 3

/-- R9 `MAX_DATA_BYTES`: data buffer capacity in bytes. -/
abbrev maxDataBytes : Nat := 4

/-- R9 `SIZE_BITS`: width of the header's size field. -/
abbrev sizeBits : Nat := 6

/-! What follows is computed from the three constants above, so that a correction of one of them is one edit (R9, D24; log 16). -/

/-- R9 `ADDR_WIDTH` = 8 * `ADDR_BYTES`. -/
abbrev addrWidth : Nat := 8 * addrBytes

/-- R29: the width of `address_remaining`, which counts 0..`ADDR_BYTES`: 2 bits. -/
abbrev addrCountBits : Nat := Nat.log2 addrBytes + 1

/-- R30, R91: the width of `data_remaining` and of `req_width`, which count 0..`MAX_DATA_BYTES`: 3 bits. -/
abbrev dataCountBits : Nat := Nat.log2 maxDataBytes + 1

/-- R29: every count 0..`ADDR_BYTES` fits, whatever the constant. -/
theorem addrBytes_lt : addrBytes < 2 ^ addrCountBits := Nat.lt_log2_self

/-- R30: every count 0..`MAX_DATA_BYTES` fits, whatever the constant. -/
theorem maxDataBytes_lt : maxDataBytes < 2 ^ dataCountBits := Nat.lt_log2_self

/-- R107: the don't-care reply byte of the n-th call. No body: any byte (log 1). -/
opaque dontCareByte : Nat → BitVec 8

/-- R55: `rsp.fail` of the n-th call where the environment states no answer. No body (log 2). -/
opaque responseFail : Nat → Bool

/-- R55: `rsp.data[j]` of the n-th call where the environment states no answer. No body (log 2). -/
opaque responseByte : Nat → Nat → BitVec 8

end Sys2Proof.Config
end

