-- ==== Sys2Proof/Word.lean ====
section
/-! DEFINITION. The word types of the block: a byte of the wire and a 24-bit register-file address (R11, R50). -/

namespace Sys2Proof

/-- One byte of the wire, bits 7..0 (R11). -/
abbrev Byte := BitVec 8

/-- An address of the collaborator's space, 0x000000..0xFFFFFF (R50). -/
abbrev Address := BitVec Config.addrWidth

/-- A buffer of `MAX_DATA_BYTES` bytes, indexed in wire order (R32). -/
abbrev Buffer := Vector Byte Config.maxDataBytes

end Sys2Proof
end

