-- ==== Sys2Proof/Syntax.lean ====
section
/-! DEFINITION. The events of the wire, the position of the decoder within a transaction, and the thirteen operations of R92. -/

namespace Sys2Proof

/-- `header.direction` (R28, R81): 1 = read from device, 0 = write to device. -/
inductive Direction where
  | write
  | read
  deriving DecidableEq, Repr

/-- The values of the `state` field (R22). -/
inductive Phase where
  | idle
  | address
  | data
  | done
  | confused
  deriving DecidableEq, Repr

/-- The two decoded fields of the last header byte (R28); `size` is the declared size, before clamping. -/
structure Header where
  direction : Direction
  size : BitVec Config.sizeBits
  deriving DecidableEq, Repr

/-- R21: what determines the meaning of the next byte. -/
structure Position where
  state : Phase
  header : Header
  addressRemaining : BitVec Config.addrCountBits
  dataRemaining : BitVec Config.dataCountBits
  deriving DecidableEq, Repr

/-- The events the block accepts (R90, R260): one `transfer` of a byte, one `reset()` at chip deselect, creation. -/
inductive Event where
  | transfer (b : Byte)
  | deselect
  | create
  deriving DecidableEq, Repr

/-- The operation kinds of R92, one constructor per row of the opcode table. A header carries its declared size as a count
of bytes (R82) and its reserved bit (R83); every other byte operation carries the incoming byte. -/
inductive Instr where
  | hdrRd (size : Nat) (rsv : Bool)
  | hdrWr (size : Nat) (rsv : Bool)
  | addr (b : Byte)
  | addrLast (b : Byte)
  | wdata (b : Byte)
  | wdataLast (b : Byte)
  | rdataFirst (b : Byte)
  | rdataNext (b : Byte)
  | zdata (b : Byte)
  | drain (b : Byte)
  | conf (b : Byte)
  | reset
  | init
  deriving DecidableEq, Repr

end Sys2Proof
end

