-- ==== Sys2Proof/WellFormed.lean ====
section
/-! DEFINITION. Which operation terms some event of the wire stands for. -/

namespace Sys2Proof

/-- R82: the declared size is a 6-bit number, 0..63. Every other operand admits every value (R83, R86, R87, R93). -/
def Instr.wellFormed : Instr → Bool
  | .hdrRd size _ => decide (size < 2 ^ Config.sizeBits)
  | .hdrWr size _ => decide (size < 2 ^ Config.sizeBits)
  | .addr _ => true
  | .addrLast _ => true
  | .wdata _ => true
  | .wdataLast _ => true
  | .rdataFirst _ => true
  | .rdataNext _ => true
  | .zdata _ => true
  | .drain _ => true
  | .conf _ => true
  | .reset => true
  | .init => true

end Sys2Proof
end

