-- ==== Sys2Proof/Decode.lean ====
section
/-! DEFINITION. From an event to the operation R92 selects at a position, total; and back, from an operation to its event. -/

namespace Sys2Proof

/-! The header layout of R80, named once so that a correction of an unaudited position is one edit (R9, D24; log 16). -/

/-- R80: bit 7 is the direction. -/
def Layout.directionBit : Nat := 7

/-- R80: the size field is bits 6..1. -/
def Layout.sizeLow : Nat := 1

/-- R80: bit 0 is reserved and ignored. -/
def Layout.reservedBit : Nat := 0

/-- R81: direction = h[7]. -/
def headerDirection (h : Byte) : Direction :=
  if h.getLsbD Layout.directionBit then .read else .write

/-- R82: size = h[6:1]. -/
def headerSize (h : Byte) : BitVec Config.sizeBits := h.extractLsb' Layout.sizeLow Config.sizeBits

/-- R83: the reserved bit, ignored by every operation. -/
def headerReserved (h : Byte) : Bool := h.getLsbD Layout.reservedBit

/-- R104 `decode_header`. -/
def decodeHeader (h : Byte) : Header := ⟨headerDirection h, headerSize h⟩

/-- R104 `clampN`: the size used for the transaction, never more than the buffer holds (R82, R84). -/
def clampN (size : Nat) : Nat := min size Config.maxDataBytes

/-- R14: the clamped data length N of the current transaction. -/
def Position.N (p : Position) : Nat := clampN p.header.size.toNat

/-- The direction bit of R81. -/
def Direction.bit : Direction → Bool
  | .write => false
  | .read => true

/-- R85 `hdr(dir, size, rsv)`. -/
def headerByte (d : Direction) (size : Nat) (rsv : Bool) : Byte :=
  (BitVec.ofNat 8 d.bit.toNat <<< Layout.directionBit) |||
    (BitVec.ofNat 8 size <<< Layout.sizeLow) |||
    (BitVec.ofNat 8 rsv.toNat <<< Layout.reservedBit)

/-- The event an operation stands for. -/
def encode : Instr → Event
  | .hdrRd size rsv => .transfer (headerByte .read size rsv)
  | .hdrWr size rsv => .transfer (headerByte .write size rsv)
  | .addr b => .transfer b
  | .addrLast b => .transfer b
  | .wdata b => .transfer b
  | .wdataLast b => .transfer b
  | .rdataFirst b => .transfer b
  | .rdataNext b => .transfer b
  | .zdata b => .transfer b
  | .drain b => .transfer b
  | .conf b => .transfer b
  | .reset => .deselect
  | .init => .create

/-- R92, state `Idle`: the byte is a header. -/
def decodeIdle (b : Byte) : Instr :=
  match headerDirection b with
  | .read => .hdrRd (headerSize b).toNat (headerReserved b)
  | .write => .hdrWr (headerSize b).toNat (headerReserved b)

/-- R92, state `Address`, by `address_remaining`. -/
def decodeAddress (p : Position) (b : Byte) : Option Instr :=
  if p.addressRemaining = 1 then some (.addrLast b)
  else if 2 ≤ p.addressRemaining.toNat ∧ p.addressRemaining.toNat ≤ Config.addrBytes then some (.addr b)
  else none

/-- R92, state `Data`, by N, direction and `data_remaining`. -/
def decodeData (p : Position) (b : Byte) : Option Instr :=
  if p.N = 0 then some (.zdata b)
  else match p.header.direction with
    | .write =>
      if p.dataRemaining.toNat = 1 then some (.wdataLast b)
      else if 2 ≤ p.dataRemaining.toNat then some (.wdata b)
      else none
    | .read =>
      if p.dataRemaining.toNat = p.N then some (.rdataFirst b)
      else if 1 ≤ p.dataRemaining.toNat ∧ p.dataRemaining.toNat < p.N then some (.rdataNext b)
      else none

/-- R92: the operation an event selects at a position; none where no row's condition holds. -/
def decode (p : Position) : Event → Option Instr
  | .deselect => some .reset
  | .create => some .init
  | .transfer b =>
    match p.state with
    | .idle => some (decodeIdle b)
    | .address => decodeAddress p b
    | .data => decodeData p b
    | .done => some (.drain b)
    | .confused => some (.conf b)

/-- The state and condition columns of R92, row by row: where each operation is selected. -/
def Instr.selectedAt : Instr → Position → Bool
  | .hdrRd _ _, p => decide (p.state = .idle)
  | .hdrWr _ _, p => decide (p.state = .idle)
  | .addr _, p => decide (p.state = .address ∧ 2 ≤ p.addressRemaining.toNat ∧ p.addressRemaining.toNat ≤ Config.addrBytes)
  | .addrLast _, p => decide (p.state = .address ∧ p.addressRemaining = 1)
  | .wdata _, p => decide (p.state = .data ∧ p.header.direction = .write ∧ 0 < p.N ∧ 2 ≤ p.dataRemaining.toNat)
  | .wdataLast _, p => decide (p.state = .data ∧ p.header.direction = .write ∧ 0 < p.N ∧ p.dataRemaining.toNat = 1)
  | .rdataFirst _, p => decide (p.state = .data ∧ p.header.direction = .read ∧ 0 < p.N ∧ p.dataRemaining.toNat = p.N)
  | .rdataNext _, p =>
    decide (p.state = .data ∧ p.header.direction = .read ∧ 0 < p.N ∧ 1 ≤ p.dataRemaining.toNat ∧ p.dataRemaining.toNat < p.N)
  | .zdata _, p => decide (p.state = .data ∧ p.N = 0)
  | .drain _, p => decide (p.state = .done)
  | .conf _, p => decide (p.state = .confused)
  | .reset, _ => true
  | .init, _ => true

/-- R80, R92: the mask 0x80 of the two header rows, the direction bit alone. -/
def Layout.directionMask : Byte := 1 <<< Layout.directionBit

/-- The byte match and mask columns of R92; none where the row has no byte. -/
def Instr.byteMatch : Instr → Option (Byte × Byte)
  | .hdrRd _ _ => some (Layout.directionMask, Layout.directionMask)
  | .hdrWr _ _ => some (0x00, Layout.directionMask)
  | .addr _ => some (0x00, 0x00)
  | .addrLast _ => some (0x00, 0x00)
  | .wdata _ => some (0x00, 0x00)
  | .wdataLast _ => some (0x00, 0x00)
  | .rdataFirst _ => some (0x00, 0x00)
  | .rdataNext _ => some (0x00, 0x00)
  | .zdata _ => some (0x00, 0x00)
  | .drain _ => some (0x00, 0x00)
  | .conf _ => some (0x00, 0x00)
  | .reset => none
  | .init => none

/-- Whether an event fits a row's byte match and mask. -/
def Event.fits : Event → Option (Byte × Byte) → Bool
  | .transfer b, some (value, mask) => b &&& mask == value
  | .transfer _, none => false
  | .deselect, m => m.isNone
  | .create, m => m.isNone

/-- R22: the 3-bit code of `state` in a snapshot. -/
def Phase.code : Phase → BitVec 3
  | .idle => 0
  | .address => 1
  | .data => 2
  | .done => 3
  | .confused => 4

/-- R22: the state a code stands for; 5, 6, 7 stand for none. -/
def Phase.ofCode (c : BitVec 3) : Option Phase :=
  if c = 0 then some .idle
  else if c = 1 then some .address
  else if c = 2 then some .data
  else if c = 3 then some .done
  else if c = 4 then some .confused
  else none

/-- R23, R40: the position right after creation or `reset()`. -/
def Position.start : Position :=
  { state := .idle, header := ⟨.write, 0⟩, addressRemaining := BitVec.ofNat Config.addrCountBits Config.addrBytes, dataRemaining := 0 }

/-- The event an opcode-table word of `nbits` bits stands for: a byte, or no byte at all (log 11). -/
def eventOfWord (nbits w : Nat) : Option Event :=
  if nbits = 8 then some (.transfer (BitVec.ofNat 8 w))
  else if nbits = 0 then some .deselect
  else none

/-- What the decoder reads from a table word at the position right after reset (log 11). -/
def decodeTableWord (nbits w : Nat) : Option Instr :=
  (eventOfWord nbits w).bind (decode Position.start)

end Sys2Proof
end

