-- ==== Sys2Proof/Machine/State.lean ====
section
/-! DEFINITION. The machine's state as plain data: the block's record of R20, and around it the events still to come and
the record of what the block showed the outside. -/

namespace Sys2Proof.Machine

/-- R20: the block's entire architectural state, six fields. -/
structure Decoder where
  state : Phase
  header : Header
  addressRemaining : BitVec Config.addrCountBits
  dataRemaining : BitVec Config.dataCountBits
  addressBuffer : Address
  dataBuffer : Buffer
  deriving DecidableEq, Repr

/-- R40 `RESET_STATE`; the zeros are the spec's decision D8 (log 3). -/
def Decoder.reset : Decoder :=
  { state := .idle
    header := ⟨.write, 0⟩
    addressRemaining := BitVec.ofNat Config.addrCountBits Config.addrBytes
    dataRemaining := 0
    addressBuffer := 0
    dataBuffer := Vector.replicate Config.maxDataBytes 0 }

/-- R33: the six fields as a snapshot serialises them, `state` by its 3-bit code of R22 (log 18). -/
structure Snapshot where
  state : BitVec 3
  header : Header
  addressRemaining : BitVec Config.addrCountBits
  dataRemaining : BitVec Config.dataCountBits
  addressBuffer : Address
  dataBuffer : Buffer
  deriving DecidableEq, Repr

/-- R55, R91: the collaborator's answer to an access, `rsp_fail` and `rsp_data`. -/
structure Response where
  fail : Bool
  data : Buffer
  deriving DecidableEq, Repr

/-- One register-file request (R51, R91): `MemRead(addr, width)` (R53) or `MemWrite(addr, width, value)` (R54). -/
inductive Access where
  | read (addr : Address) (width : Nat)
  | write (addr : Address) (width : Nat) (value : List Byte)
  deriving DecidableEq, Repr

/-- R221: the causes of a protocol violation. -/
inductive ViolationCause where
  | zeroSizeData
  deriving DecidableEq, Repr

/-- R220, R223: the status of a `transfer` call with the information its report carries. -/
inductive Status where
  | ok
  | violation (cause : ViolationCause)
  | collabFault (kind : Direction) (addr : Address) (width : Nat)
  deriving DecidableEq, Repr

/-- What one operation on a `transfer` does (R100): the record after it, the reply, the status, the request. -/
structure Effect where
  decoder : Decoder
  reply : Byte
  status : Status
  request : Option Access
  deriving DecidableEq, Repr

/-- One `transfer` as the outside sees it: `xfer_in`, `xfer_out`, `xfer_status` (R90) and the request ports (R91). -/
structure Exchange where
  incoming : Byte
  reply : Byte
  status : Status
  request : Option Access
  deriving DecidableEq, Repr

/-- What the outside saw of one event: an exchange, or one of the two boundary events of R39. -/
inductive TraceEntry where
  | exchange (x : Exchange)
  | deselected
  | created
  deriving DecidableEq, Repr

/-- What the transport presents: one event of R90 (a transfer with the collaborator's answer where the environment states
one, R94), creation (R260), or events that overlap (R266). -/
inductive Input where
  | transfer (b : Byte) (rsp : Option Response)
  | deselect
  | create
  | overlapping
  deriving DecidableEq, Repr

/-- The machine: the block's record and, around it, the model's own fields. -/
structure State where
  /-- R20: the block. -/
  decoder : Decoder
  /-- R260, R262 (1): whether creation has happened (log 4). -/
  created : Bool
  /-- Events not yet taken, oldest first (R67). -/
  inputs : List Input
  /-- R55: the answer port of the call being made; none where the environment states no answer (log 2). -/
  rsp : Option Response
  /-- R10: the number of calls made, to which the free values of `Config` are applied (log 1). -/
  draws : Nat
  /-- What the outside saw, newest first (log 10). -/
  trace : List TraceEntry
  deriving DecidableEq, Repr

/-- Nothing in the spec stops the machine: its errors are status outputs of a call that goes on (R227, R228; log 14). -/
inductive Fault where
  deriving DecidableEq, Repr

/-- Why a step or a meaning gives no next state. -/
inductive Refusal where
  /-- Raised by `exec` alone, for an operation without a meaning yet. Safe. -/
  | notModelled (mnemonic : String)
  /-- Raised by a `transfer` or `reset()` before creation (R262 (1); log 4). Safe. -/
  | notCreated
  /-- Raised by a `transfer` in a state outside R38, and by a meaning run where R92 does not select it (R92; log 7). Safe. -/
  | noOperation
  /-- Raised by `step` on overlapping events (R266, D19; log 8). Safe. -/
  | overlapping
  /-- Raised by `Snapshot.restore` on a snapshot outside R38 or with a code 5..7 (R22; log 18). Safe. -/
  | badSnapshot
  deriving DecidableEq, Repr

/-- What fetching the next event comes to: no event waits, the event is refused, or an operation is to be run. -/
inductive Fetched where
  | quiet
  | refuse (r : Refusal)
  | run (i : Instr) (s : State)
  deriving DecidableEq, Repr

/-- The machine right after creation (R260, R40), no event waiting; the model's own fields as logs 1, 2, 4, 9, 10 say. -/
def State.reset : State :=
  { decoder := Decoder.reset, created := true, inputs := [], rsp := none, draws := 0, trace := [] }

end Sys2Proof.Machine
end

