-- ==== Sys2Proof/Machine/Operands.lean ====
section
/-! DEFINITION. The derived quantities of R14, the legal states of R38, and the places a byte is stored to and read from. -/

namespace Sys2Proof.Machine

/-- R21: what the next byte's meaning depends on. -/
def Decoder.position (d : Decoder) : Position :=
  { state := d.state, header := d.header, addressRemaining := d.addressRemaining, dataRemaining := d.dataRemaining }

/-- R14: `N(s) = min(s.header.size, MAX_DATA_BYTES)`. -/
def Decoder.N (d : Decoder) : Nat := clampN d.header.size.toNat

/-- R14: `addr(s)`, the address dispatched, as assembled: no offset, mask or check (R61, R66). -/
def Decoder.addr (d : Decoder) : Address := d.addressBuffer

/-- R38: the states that hold between events. -/
def Decoder.legal (d : Decoder) : Bool :=
  match d.state with
  | .idle => decide (d = Decoder.reset)
  | .address =>
    decide (1 ≤ d.addressRemaining.toNat ∧ d.addressRemaining.toNat ≤ Config.addrBytes ∧ d.dataRemaining.toNat = d.N)
  | .data =>
    decide (d.addressRemaining = 0 ∧
      ((d.N = 0 ∧ d.dataRemaining = 0) ∨ (1 ≤ d.dataRemaining.toNat ∧ d.dataRemaining.toNat ≤ d.N)))
  | .done => decide (d.addressRemaining = 0 ∧ d.dataRemaining = 0)
  | .confused => decide (d.addressRemaining = 0 ∧ d.dataRemaining = 0 ∧ d.header.size = 0)

/-- R123: byte `b` into bits 8k-1..8k-8, by shift and mask, checked (k in 1..3) before the write. -/
def storeLane (k : Nat) (b : Byte) (a : Address) : Address :=
  if 1 ≤ k ∧ k ≤ Config.addrBytes then
    (a &&& ~~~((0xFF : Address) <<< (8 * (k - 1)))) ||| (b.setWidth Config.addrWidth <<< (8 * (k - 1)))
  else a

/-- R142: the wire index of the data byte that comes while `data_remaining` is `dr`. -/
def dataIndex (n dr : Nat) : Nat := n - dr

/-- R32: byte `b` at index `i`, the index checked against the capacity before the write. -/
def storeByte (i : Nat) (b : Byte) (buf : Buffer) : Buffer :=
  if h : i < Config.maxDataBytes then buf.set i b h else buf

/-- R161: the byte at index `i`; `other` where the index is outside the buffer, which no selected operation meets (log 7). -/
def loadByte (i : Nat) (other : Byte) (buf : Buffer) : Byte :=
  if h : i < Config.maxDataBytes then buf[i] else other

/-- R160: the first `n` bytes from the answer, the rest as they were. -/
def fillBytes (n : Nat) (data buf : Buffer) : Buffer :=
  Vector.ofFn fun j => if j.val < n then data[j] else buf[j]

/-- R141, R143: the N bytes written: those stored before, then the byte that has just come. -/
def writeVector (n : Nat) (b : Byte) (buf : Buffer) : List Byte := buf.toList.take (n - 1) ++ [b]

/-- R14 `be_value`: the big-endian integer of a byte vector (R58). -/
def beValue (v : List Byte) : Nat := v.foldl (fun acc b => acc * 256 + b.toNat) 0

/-- R58, D10 `COLLAB_DATA_ORDER`: how the device reads a vector as an integer, a parameter of the collaborator (log 17). -/
def collaboratorValue (bigEndian : Bool) (v : List Byte) : Nat :=
  if bigEndian then beValue v else beValue v.reverse

end Sys2Proof.Machine
end

