-- ==== Sys2Proof/Machine/Flags.lean ====
section
/-! DEFINITION. The block stores no flags (R34): the status of a call, its 2-bit code, and the request ports of R91. -/

namespace Sys2Proof.Machine

/-- R223: the code on `xfer_status`; 3 is never returned. -/
def Status.code : Status → BitVec 2
  | .ok => 0
  | .violation _ => 1
  | .collabFault _ _ _ => 2

/-- The kind of access, as R223 reports it. -/
def Access.kind : Access → Direction
  | .read _ _ => .read
  | .write _ _ _ => .write

/-- The address of an access. -/
def Access.addr : Access → Address
  | .read a _ => a
  | .write a _ _ => a

/-- The width of an access in bytes. -/
def Access.width : Access → Nat
  | .read _ n => n
  | .write _ n _ => n

/-- R222: the status of a call that made an access, by the answer's failure flag. -/
def accessStatus (a : Access) (r : Response) : Status :=
  if r.fail then .collabFault a.kind a.addr a.width else .ok

/-- R91 `req_kind`: NONE 0, READ 1, WRITE 2. -/
def reqKind : Option Access → BitVec 2
  | none => 0
  | some (.read _ _) => 1
  | some (.write _ _ _) => 2

/-- R91 `req_addr`; the spec gives it no value where no request is made. -/
def reqAddr (r : Option Access) : Option Address := r.map Access.addr

/-- R91 `req_width`, 3 bits, valid where a request is made. -/
def reqWidth (r : Option Access) : Option (BitVec Config.dataCountBits) := r.map fun a => BitVec.ofNat Config.dataCountBits a.width

/-- R91 `req_wdata`: byte `i` of the write vector; the lanes at and above the width are unused and hold no value. -/
def reqWData : Option Access → Vector (Option Byte) Config.maxDataBytes
  | some (.write _ n v) => Vector.ofFn fun j => if j.val < n then v[j.val]? else none
  | some (.read _ _) => Vector.replicate Config.maxDataBytes none
  | none => Vector.replicate Config.maxDataBytes none

end Sys2Proof.Machine
end

