-- ==== Sys2Proof/Machine/Ops.lean ====
section
/-! DEFINITION. The operations the meanings share: the free inputs of a call, completing a call, the guard of R92, the access
primitives, error entry and the way out of it. -/

namespace Sys2Proof.Machine

/-- R107 `emit_dc()`: the don't-care draw of the call being made, any byte (log 1). -/
def State.dontCare (s : State) : Byte := Config.dontCareByte s.draws

/-- R55: the collaborator's answer to the access of the call being made: the environment's where it states one, else any
answer (log 2). -/
def State.response (s : State) : Response :=
  match s.rsp with
  | some r => r
  | none => { fail := Config.responseFail s.draws, data := Vector.ofFn fun j => Config.responseByte s.draws j.val }

/-- R53 `MemRead(addr, n)`. -/
def memRead (d : Decoder) : Access := .read d.addr d.N

/-- R54 `MemWrite(addr, n, v)`. -/
def memWrite (d : Decoder) (v : List Byte) : Access := .write d.addr d.N v

/-- R100: an operation that replies don't-care, with status OK and no access. -/
def quietEffect (s : State) (d : Decoder) : Effect := { decoder := d, reply := s.dontCare, status := .ok, request := none }

/-- R221 `raise ProtocolViolation`: error entry of R227: `Confused`, nothing saved, the report on this very call. -/
def raiseProtocolViolation (s : State) (cause : ViolationCause) : Effect :=
  { decoder := { s.decoder with state := .confused }, reply := s.dontCare, status := .violation cause, request := none }

/-- The end of a transaction's access (R26): the counter at 0 and `Done`; after a failure too (R222, R227). -/
def Decoder.finish (d : Decoder) : Decoder := { d with dataRemaining := 0, state := .done }

/-- R222: a call that made access `a`, replies don't-care and ends in `Done`: error entry where the answer failed. -/
def accessEffect (s : State) (a : Access) (d : Decoder) : Effect :=
  { decoder := d.finish, reply := s.dontCare, status := accessStatus a s.response, request := some a }

/-- R12, R100, R103: the end of a `transfer` call: the record written at once, exactly one reply byte, the answer used up. -/
def State.complete (s : State) (b : Byte) (e : Effect) : State :=
  { s with
    decoder := e.decoder
    rsp := none
    draws := s.draws + 1
    trace := .exchange { incoming := b, reply := e.reply, status := e.status, request := e.request } :: s.trace }

/-- R92: whether operation `i` is the one selected: the record is legal (R38) and the row's condition holds. -/
def State.selects (s : State) (i : Instr) : Bool :=
  s.decoder.legal && i.wellFormed && i.selectedAt s.decoder.position

/-- R92: operation `i` on a `transfer` of `b`, run only where it is selected (logs 4, 7). -/
def State.transfer (s : State) (i : Instr) (b : Byte) (e : Effect) : Host.Outcome State Fault Refusal :=
  if s.created then
    if s.selects i then .next (s.complete b e) else .refused .noOperation
  else .refused .notCreated

/-- R200, R228: every field from `RESET_STATE`; no reply, no status, no access. -/
def State.boundary (s : State) (mark : TraceEntry) : State :=
  { s with decoder := Decoder.reset, created := true, rsp := none, trace := mark :: s.trace }

/-- R33: the record as a snapshot serialises it. -/
def Decoder.snapshot (d : Decoder) : Snapshot :=
  { state := d.state.code, header := d.header, addressRemaining := d.addressRemaining, dataRemaining := d.dataRemaining,
    addressBuffer := d.addressBuffer, dataBuffer := d.dataBuffer }

/-- R22, R38: restoring a snapshot; refused where its code stands for no state or the record is outside R38 (log 18). -/
def Snapshot.restore (n : Snapshot) : Host.Outcome Decoder Fault Refusal :=
  match Phase.ofCode n.state with
  | none => .refused .badSnapshot
  | some ph =>
    let d : Decoder :=
      { state := ph, header := n.header, addressRemaining := n.addressRemaining, dataRemaining := n.dataRemaining,
        addressBuffer := n.addressBuffer, dataBuffer := n.dataBuffer }
    if d.legal then .next d else .refused .badSnapshot

end Sys2Proof.Machine
end

