-- ==== Sys2Proof/Machine/AddressPhase.lean ====
section
/-! DEFINITION. The address operations (41_address.md). -/

namespace Sys2Proof.Machine

/-- R123, R29: the byte into the lane that `address_remaining` names, the count one less; nothing where it is already 0. -/
def Decoder.acceptAddress (d : Decoder) (b : Byte) : Decoder :=
  { d with
    addressBuffer := storeLane d.addressRemaining.toNat b d.addressBuffer
    addressRemaining := BitVec.ofNat Config.addrCountBits (d.addressRemaining.toNat - 1) }

/-- ADDR (R120). -/
def execAddr (b : Byte) (s : State) : Host.Outcome State Fault Refusal :=
  s.transfer (.addr b) b (quietEffect s (s.decoder.acceptAddress b))

/-- ADDR_LAST (R121): no access, even for a read. -/
def execAddrLast (b : Byte) (s : State) : Host.Outcome State Fault Refusal :=
  s.transfer (.addrLast b) b (quietEffect s { s.decoder.acceptAddress b with state := .data })

end Sys2Proof.Machine
end

