-- ==== Sys2Proof/Machine/Boundary.lean ====
section
/-! DEFINITION. The transaction boundary (45_boundary.md) and creation (70_reset_and_hazards.md). -/

namespace Sys2Proof.Machine

/-- RESET (R200): from any state of a created decoder (logs 4, 6). -/
def execReset (s : State) : Host.Outcome State Fault Refusal :=
  if s.created then .next (s.boundary .deselected) else .refused .notCreated

/-- INIT (R260): creation, which is `reset()` applied to any state (R261; log 5). -/
def execInit (s : State) : Host.Outcome State Fault Refusal := .next (s.boundary .created)

end Sys2Proof.Machine
end

