-- ==== Sys2Proof/Machine/Framing.lean ====
section
/-! DEFINITION. The header operations of state `Idle` (40_framing.md). -/

namespace Sys2Proof.Machine

/-- R101, R102: the record after a header byte: the header, both counters, `Address`; the buffers keep their values. -/
def Decoder.acceptHeader (d : Decoder) (dir : Direction) (size : BitVec Config.sizeBits) : Decoder :=
  { d with
    header := ⟨dir, size⟩
    dataRemaining := BitVec.ofNat Config.dataCountBits (clampN size.toNat)
    addressRemaining := BitVec.ofNat Config.addrCountBits Config.addrBytes
    state := .address }

/-- HDR_RD (R101). -/
def execHdrRd (size : Nat) (rsv : Bool) (s : State) : Host.Outcome State Fault Refusal :=
  s.transfer (.hdrRd size rsv) (headerByte .read size rsv)
    (quietEffect s (s.decoder.acceptHeader .read (BitVec.ofNat Config.sizeBits size)))

/-- HDR_WR (R102). -/
def execHdrWr (size : Nat) (rsv : Bool) (s : State) : Host.Outcome State Fault Refusal :=
  s.transfer (.hdrWr size rsv) (headerByte .write size rsv)
    (quietEffect s (s.decoder.acceptHeader .write (BitVec.ofNat Config.sizeBits size)))

end Sys2Proof.Machine
end

