-- ==== Sys2Proof/Machine/ReadData.lean ====
section
/-! DEFINITION. The read dispatch and the streaming of the buffered bytes (43_read_data.md). -/

namespace Sys2Proof.Machine

/-- The count one less, and `Done` where it reaches 0 (R160, R161). -/
def Decoder.countDown (d : Decoder) : Decoder :=
  { d with
    dataRemaining := BitVec.ofNat Config.dataCountBits (d.dataRemaining.toNat - 1)
    state := if d.dataRemaining.toNat - 1 = 0 then .done else d.state }

/-- R160, success: the N bytes of the answer buffered, its first byte replied. -/
def readSuccess (s : State) : Effect :=
  { decoder := { s.decoder with dataBuffer := fillBytes s.decoder.N s.response.data s.decoder.dataBuffer }.countDown
    reply := loadByte 0 s.dontCare s.response.data
    status := .ok
    request := some (memRead s.decoder) }

/-- RDATA_FIRST (R160): the transaction's one read; on failure `data_buffer` keeps its value and the state is `Done`. -/
def execRdataFirst (b : Byte) (s : State) : Host.Outcome State Fault Refusal :=
  s.transfer (.rdataFirst b) b
    (if s.response.fail then accessEffect s (memRead s.decoder) s.decoder else readSuccess s)

/-- RDATA_NEXT (R161): one buffered byte, no access. -/
def execRdataNext (b : Byte) (s : State) : Host.Outcome State Fault Refusal :=
  s.transfer (.rdataNext b) b
    { decoder := s.decoder.countDown
      reply := loadByte (dataIndex s.decoder.N s.decoder.dataRemaining.toNat) s.dontCare s.decoder.dataBuffer
      status := .ok
      request := none }

end Sys2Proof.Machine
end

