-- ==== Sys2Proof/Machine/Terminal.lean ====
section
/-! DEFINITION. The operations after which no access can be made (44_terminal.md). -/

namespace Sys2Proof.Machine

/-- ZDATA (R180). -/
def execZdata (b : Byte) (s : State) : Host.Outcome State Fault Refusal :=
  s.transfer (.zdata b) b (raiseProtocolViolation s .zeroSizeData)

/-- DRAIN (R183): no field written, status OK. -/
def execDrain (b : Byte) (s : State) : Host.Outcome State Fault Refusal :=
  s.transfer (.drain b) b (quietEffect s s.decoder)

/-- CONF (R186): no field written, status OK: the violation was reported once, by ZDATA. -/
def execConf (b : Byte) (s : State) : Host.Outcome State Fault Refusal :=
  s.transfer (.conf b) b (quietEffect s s.decoder)

end Sys2Proof.Machine
end

