-- ==== Sys2Proof/Machine/WriteData.lean ====
section
/-! DEFINITION. The write data phase and the write dispatch (42_write_data.md). -/

namespace Sys2Proof.Machine

/-- R142, R140: the byte at its wire index, the count one less. -/
def Decoder.acceptData (d : Decoder) (b : Byte) : Decoder :=
  { d with
    dataBuffer := storeByte (dataIndex d.N d.dataRemaining.toNat) b d.dataBuffer
    dataRemaining := BitVec.ofNat Config.dataCountBits (d.dataRemaining.toNat - 1) }

/-- WDATA (R140). -/
def execWdata (b : Byte) (s : State) : Host.Outcome State Fault Refusal :=
  s.transfer (.wdata b) b (quietEffect s (s.decoder.acceptData b))

/-- WDATA_LAST (R141): the transaction's one write, of the N bytes of R143, then `Done` whatever the answer. -/
def execWdataLast (b : Byte) (s : State) : Host.Outcome State Fault Refusal :=
  s.transfer (.wdataLast b) b
    (accessEffect s (memWrite s.decoder (writeVector s.decoder.N b s.decoder.dataBuffer)) (s.decoder.acceptData b))

end Sys2Proof.Machine
end

