-- ==== Sys2Proof/Machine/Dispatch.lean ====
section
/-! DEFINITION. One arm per operation kind of R92. -/

namespace Sys2Proof.Machine

def exec (i : Instr) (s : State) : Host.Outcome State Fault Refusal :=
  match i with
  | .hdrRd size rsv => Sys2Proof.Machine.execHdrRd size rsv s
  | .hdrWr size rsv => Sys2Proof.Machine.execHdrWr size rsv s
  | .addr b => Sys2Proof.Machine.execAddr b s
  | .addrLast b => Sys2Proof.Machine.execAddrLast b s
  | .wdata b => Sys2Proof.Machine.execWdata b s
  | .wdataLast b => Sys2Proof.Machine.execWdataLast b s
  | .rdataFirst b => Sys2Proof.Machine.execRdataFirst b s
  | .rdataNext b => Sys2Proof.Machine.execRdataNext b s
  | .zdata b => Sys2Proof.Machine.execZdata b s
  | .drain b => Sys2Proof.Machine.execDrain b s
  | .conf b => Sys2Proof.Machine.execConf b s
  | .reset => Sys2Proof.Machine.execReset s
  | .init => Sys2Proof.Machine.execInit s

end Sys2Proof.Machine
end

