-- ==== Sys2Proof/Machine/Fetch.lean ====
section
/-! DEFINITION. Taking the next event: which operation it selects and what the call's answer port holds. -/

namespace Sys2Proof.Machine

/-- The state with the event taken and the call's answer on the port (R55). -/
def State.take (s : State) (rest : List Input) (rsp : Option Response) : State := { s with inputs := rest, rsp := rsp }

/-- R92, R100: one `transfer`: refused before creation (R262 (1)) and where no row is selected. -/
def fetchTransfer (s : State) (rest : List Input) (b : Byte) (rsp : Option Response) : Fetched :=
  if s.created then
    if s.decoder.legal then
      match decode s.decoder.position (.transfer b) with
      | some i => .run i (s.take rest rsp)
      | none => .refuse .noOperation
    else .refuse .noOperation
  else .refuse .notCreated

/-- The next event; with none waiting the block holds its state (R236; log 9). -/
def fetch (s : State) : Fetched :=
  match s.inputs with
  | [] => .quiet
  | .transfer b rsp :: rest => fetchTransfer s rest b rsp
  | .deselect :: rest => .run .reset (s.take rest none)
  | .create :: rest => .run .init (s.take rest none)
  | .overlapping :: _ => .refuse .overlapping

/-- A table word as the next event: its event in front, and for a byte the position its selection needs, right after
reset, since the opcode is the pair (state, byte) of R18 (log 11). -/
def placeWord (s : State) (nbits w : Nat) : State :=
  match eventOfWord nbits w with
  | some (.transfer b) =>
    { s with decoder := Decoder.reset, created := true, inputs := .transfer b none :: s.inputs }
  | some .deselect => { s with created := true, inputs := .deselect :: s.inputs }
  | some .create => { s with inputs := .create :: s.inputs }
  | none => s

end Sys2Proof.Machine
end

