-- ==== Sys2Proof/Machine/Step.lean ====
section
/-! DEFINITION. One step: the next event taken and the operation it selects run to completion (R67, R100). -/

namespace Sys2Proof.Machine

/-- One event. -/
def step (s : State) : Host.Outcome State Fault Refusal :=
  match fetch s with
  | .quiet => .next s
  | .refuse r => .refused r
  | .run i s' => exec i s'

/-- The state whose next step runs the table word (log 11). -/
def State.withFetchWord (s : State) (nbits w : Nat) : State := placeWord s nbits w

end Sys2Proof.Machine
end

