-- ==== Sys2Proof/Machine/Programs.lean ====
section
/-! DEFINITION. The event sequences of R94 and the pseudo-operations of R95: how a program of the transport is written. -/

namespace Sys2Proof.Machine

/-- R95 `A[23:16]`, `A[15:8]`, `A[7:0]`: an address as its `ADDR_BYTES` bytes, most significant first (R57, R86). -/
def addressBytes (a : Address) : List Byte := (List.range Config.addrBytes).reverse.map fun k => a.extractLsb' (8 * k) 8

/-- R88: the meaningful part of a transaction on the wire: header, address, data. -/
def frameBytes (d : Direction) (n : Nat) (a : Address) (ds : List Byte) : List Byte :=
  headerByte d n false :: (addressBytes a ++ ds)

/-- R94: one `XFER` per byte, each with the answer (`rsp <- ...`) stated before it, if any. -/
def xfers (bs : List Byte) (rs : List (Option Response)) : List Input := List.zipWith Input.transfer bs rs

/-- R95 `WRITE n, A, d0, ..., d(n-1)`, with an answer, if any is stated, per byte. -/
def writeProgram (n : Nat) (a : Address) (ds : List Byte) (rs : List (Option Response)) : List Input :=
  xfers (frameBytes .write n a ds) rs ++ [.deselect]

/-- R95 `READ n, A`; its filler byte 0x00 is arbitrary (R162). -/
def readProgram (n : Nat) (a : Address) (rs : List (Option Response)) : List Input :=
  xfers (frameBytes .read n a (List.replicate n 0x00)) rs ++ [.deselect]

/-- R95 `FILL k`. -/
def fillProgram (k : Nat) (rs : List (Option Response)) : List Input := xfers (List.replicate k 0x00) rs

end Sys2Proof.Machine
end

