-- ==== Sys2Proof/Safety.lean ====
section
/-! DEFINITION. The terms claims use: runs, what the outside saw since the last boundary event, and the invariants. -/

namespace Sys2Proof.Machine

/-- `k` steps. -/
def State.run : Nat → State → Host.Outcome State Fault Refusal
  | 0, s => .next s
  | k + 1, s =>
    match step s with
    | .next s' => s'.run k
    | .fault f => .fault f
    | .refused r => .refused r

/-- The state after a `transfer` that leaves the record `d` and shows the exchange `x`: nothing else changes but the answer
port, used up (R56), and the call counter. -/
def State.afterCall (s : State) (d : Decoder) (x : Exchange) : State :=
  { decoder := d
    created := s.created
    inputs := s.inputs
    rsp := none
    draws := s.draws + 1
    trace := .exchange x :: s.trace }

/-- The exchanges after the newest boundary mark, newest first (R39). -/
def sinceBoundary : List TraceEntry → List Exchange
  | .exchange x :: rest => x :: sinceBoundary rest
  | .deselected :: _ => []
  | .created :: _ => []
  | [] => []

/-- The exchanges of the current chip-select period, oldest first. -/
def State.exchanges (s : State) : List Exchange := (sinceBoundary s.trace).reverse

/-- The register accesses of the current chip-select period, oldest first. -/
def State.accesses (s : State) : List Access := s.exchanges.filterMap Exchange.request

/-- The bytes received in the current chip-select period, oldest first. -/
def State.wire (s : State) : List Byte := s.exchanges.map Exchange.incoming

/-- How many exchanges a trace holds: one reply byte each. -/
def repliesIn (tr : List TraceEntry) : Nat :=
  tr.countP fun e => match e with
    | .exchange _ => true
    | .deselected => false
    | .created => false

/-- Whether an input is a `transfer`. -/
def Input.isTransfer : Input → Bool
  | .transfer _ _ => true
  | .deselect => false
  | .create => false
  | .overlapping => false

/-- Whether the environment states the collaborator's answer to every access an input could make. -/
def Input.answered : Input → Bool
  | .transfer _ rsp => rsp.isSome
  | .deselect => true
  | .create => true
  | .overlapping => true

/-- R57, P2: the address that the bytes a2, a1, a0 stand for. -/
def assembled (a2 a1 a0 : Byte) : Address :=
  (a2.setWidth Config.addrWidth <<< 16) ||| (a1.setWidth Config.addrWidth <<< 8) ||| a0.setWidth Config.addrWidth

/-- R38 as an invariant of the machine: a created decoder is in a legal state. -/
def State.Inv (s : State) : Prop := s.created = true → s.decoder.legal = true

/-- R205, the access column: how many accesses the current transaction has made. -/
def Decoder.accessesMade (d : Decoder) : Nat :=
  match d.state with
  | .idle => 0
  | .address => 0
  | .data =>
    match d.header.direction with
    | .write => 0
    | .read => if d.dataRemaining.toNat = d.N then 0 else 1
  | .done => 1
  | .confused => 0

/-- R39, R205: the trace shows as many accesses since the last boundary as the record says were made. -/
def State.Counted (s : State) : Prop :=
  s.created = true → s.decoder.legal = true ∧ s.accesses.length = s.decoder.accessesMade

/-- What the bytes of a chip-select period, past the address, and its accesses say of the record. -/
def Decoder.AgreesData (d : Decoder) (ds : List Byte) (acc : List Access) : Prop :=
  match d.state, d.header.direction with
  | .data, .write => ds.length + d.dataRemaining.toNat = d.N ∧ d.dataBuffer.toList.take ds.length = ds ∧ acc = []
  | .data, .read =>
    ds.length + d.dataRemaining.toNat = d.N ∧ acc = if ds = [] then [] else [.read d.addressBuffer d.N]
  | .done, .write =>
    1 ≤ d.N ∧ d.N ≤ ds.length ∧ d.dataBuffer.toList.take d.N = ds.take d.N ∧
      acc = [.write d.addressBuffer d.N (ds.take d.N)]
  | .done, .read => 1 ≤ d.N ∧ ds ≠ [] ∧ acc = [.read d.addressBuffer d.N]
  | .confused, _ => d.N = 0 ∧ ds ≠ [] ∧ acc = []
  | .idle, _ => False
  | .address, _ => False

/-- R109, R123, R124, R142, R143, P2, P3: the record is what the bytes received since the last boundary say it is. -/
def Decoder.Agrees (d : Decoder) (bytes : List Byte) (acc : List Access) : Prop :=
  match d.state with
  | .idle => d = Decoder.reset ∧ bytes = [] ∧ acc = []
  | .address =>
    ∃ h as, bytes = h :: as ∧ d.header = decodeHeader h ∧ as.length + d.addressRemaining.toNat = Config.addrBytes ∧
      d.addressBuffer.toNat = beValue as * 256 ^ d.addressRemaining.toNat ∧ acc = []
  | .data | .done | .confused =>
    ∃ h a2 a1 a0 ds, bytes = h :: a2 :: a1 :: a0 :: ds ∧ d.header = decodeHeader h ∧
      d.addressBuffer = assembled a2 a1 a0 ∧ d.AgreesData ds acc

/-- The record agrees with the wire, in a legal state. -/
def State.FollowsWire (s : State) : Prop :=
  s.created = true → s.decoder.legal = true ∧ s.decoder.Agrees s.wire s.accesses

end Sys2Proof.Machine
end

