-- ==== Sys2Proof/Certificates/Slice0/Obligations.lean ====
section
/-! DEFINITION. The statements for the provers. `s.created = true`, `s.decoder.legal = true` (R38) and an operation's own selection
condition (R92) are the only hypotheses an operation's statement has; the draws of R107 and the answers of R55 are free in all of them. -/

open Sys2Proof Sys2Proof.Machine

/-! ## Encoding and selection -/

/-- R92, R85: the event of a well-formed operation selects that operation wherever its row's condition holds; no operand bit is lost. -/
def Obligations.DecodeEncodeRoundTrip : Prop :=
  ∀ (i : Instr) (p : Position), i.wellFormed = true → i.selectedAt p = true → decode p (encode i) = some i

/-- R92, R85: an operation that an event selects is well-formed, its row's condition holds there, and its event is that event: what the
meanings' guard asks is what the decoder answers. -/
def Obligations.EncodeDecodeRoundTrip : Prop :=
  ∀ (p : Position) (e : Event) (i : Instr),
    decode p e = some i → i.wellFormed = true ∧ i.selectedAt p = true ∧ encode i = e

/-- R92: the table, row by row, both ways, with N and dr of R14 (a header row also fixes the operands), so that no two rows overlap; in a
state of R38 every event selects an operation; a `transfer` in any other state is refused (a `reset()` or a creation runs there too: the
model's reading, logs 5, 6). -/
def Obligations.SelectionTable : Prop :=
  (∀ (p : Position) (b : Byte) (i : Instr),
    (decode p (.transfer b) = some i ↔
      (p.state = .idle ∧ b &&& 0x80 = 0x80 ∧ i = .hdrRd (b.toNat / 2 % 64) (b.getLsbD 0)) ∨
      (p.state = .idle ∧ b &&& 0x80 = 0x00 ∧ i = .hdrWr (b.toNat / 2 % 64) (b.getLsbD 0)) ∨
      (p.state = .address ∧ (p.addressRemaining = 2 ∨ p.addressRemaining = 3) ∧ i = .addr b) ∨
      (p.state = .address ∧ p.addressRemaining = 1 ∧ i = .addrLast b) ∨
      (p.state = .data ∧ p.header.direction = .write ∧ 0 < min p.header.size.toNat 4 ∧ 2 ≤ p.dataRemaining.toNat ∧
        i = .wdata b) ∨
      (p.state = .data ∧ p.header.direction = .write ∧ 0 < min p.header.size.toNat 4 ∧ p.dataRemaining.toNat = 1 ∧
        i = .wdataLast b) ∨
      (p.state = .data ∧ p.header.direction = .read ∧ 0 < min p.header.size.toNat 4 ∧
        p.dataRemaining.toNat = min p.header.size.toNat 4 ∧ i = .rdataFirst b) ∨
      (p.state = .data ∧ p.header.direction = .read ∧ 1 ≤ p.dataRemaining.toNat ∧
        p.dataRemaining.toNat < min p.header.size.toNat 4 ∧ i = .rdataNext b) ∨
      (p.state = .data ∧ min p.header.size.toNat 4 = 0 ∧ i = .zdata b) ∨
      (p.state = .done ∧ i = .drain b) ∨
      (p.state = .confused ∧ i = .conf b)) ∧
    decode p .deselect = some .reset ∧ decode p .create = some .init) ∧
  (∀ (d : Decoder) (e : Event), d.legal = true → ∃ i, decode d.position e = some i) ∧
  (∀ (s : State) (b : Byte) (r : Option Response) (rest : List Input), s.created = true → s.decoder.legal = false →
    s.inputs = .transfer b r :: rest → step s = .refused .noOperation)

/-- R83: header bytes that differ only in bit 0 select the same operation kind and leave the same record, which does not hold the bit;
all 256 header bytes are accepted. -/
def Obligations.ReservedHeaderBitIgnored : Prop :=
  ∀ (s : State) (h h' : Byte), s.created = true → s.decoder.legal = true → s.decoder.state = .idle → h >>> 1 = h' >>> 1 →
    ∃ t t', exec (decodeIdle h) s = .next t ∧ exec (decodeIdle h') s = .next t' ∧ t.decoder = t'.decoder ∧
      t.decoder.state = .address ∧
      ((∃ n r r', decodeIdle h = .hdrRd n r ∧ decodeIdle h' = .hdrRd n r') ∨
        (∃ n r r', decodeIdle h = .hdrWr n r ∧ decodeIdle h' = .hdrWr n r'))

/-- R104, P1: for all header bytes, direction = bit 7, size = bits 6..1, clamped size = min(bits 6..1, 4). -/
def Obligations.HeaderDecode : Prop :=
  ∀ h : Byte,
    ((decodeHeader h).direction = .read ↔ 128 ≤ h.toNat) ∧
    (decodeHeader h).size.toNat = h.toNat / 2 % 64 ∧
    clampN (decodeHeader h).size.toNat = min (h.toNat / 2 % 64) 4

/-- R85: `hdr(dir, size, rsv) = (dir << 7) | (size << 1) | rsv`, with its examples; and decoding a header gives its fields back. -/
def Obligations.HeaderEncodingFunction : Prop :=
  (∀ (d : Direction) (n : Nat) (r : Bool), n < 64 →
    (headerByte d n r).toNat = d.bit.toNat * 128 + n * 2 + r.toNat ∧
    decodeHeader (headerByte d n r) = ⟨d, BitVec.ofNat 6 n⟩ ∧ headerReserved (headerByte d n r) = r) ∧
  headerByte .write 4 false = 0x08 ∧ headerByte .read 1 false = 0x82 ∧ headerByte .read 2 false = 0x84 ∧
  headerByte .read 4 false = 0x88 ∧ headerByte .write 40 false = 0x50 ∧ headerByte .read 40 false = 0xD0 ∧
  headerByte .write 63 true = 0x7F ∧ headerByte .write 0 false = 0x00 ∧ headerByte .read 0 true = 0x81

/-- R80, R85 and 95_test_vectors.md: bytes of the spec, written out, at the position after reset and in the other states. -/
def Obligations.SpecWordsDecode : Prop :=
  decodeTableWord 8 0x82 = some (.hdrRd 1 false) ∧ decodeTableWord 8 0x88 = some (.hdrRd 4 false) ∧
  decodeTableWord 8 0xFF = some (.hdrRd 63 true) ∧ decodeTableWord 8 0x81 = some (.hdrRd 0 true) ∧
  decodeTableWord 8 0x00 = some (.hdrWr 0 false) ∧ decodeTableWord 8 0x07 = some (.hdrWr 3 true) ∧
  decodeTableWord 8 0x50 = some (.hdrWr 40 false) ∧ decodeTableWord 8 0x7F = some (.hdrWr 63 true) ∧
  decode ⟨.address, ⟨.read, 4⟩, 3, 4⟩ (.transfer 0x12) = some (.addr 0x12) ∧
  decode ⟨.address, ⟨.read, 4⟩, 1, 4⟩ (.transfer 0x56) = some (.addrLast 0x56) ∧
  decode ⟨.data, ⟨.write, 40⟩, 0, 4⟩ (.transfer 0xA1) = some (.wdata 0xA1) ∧
  decode ⟨.data, ⟨.write, 1⟩, 0, 1⟩ (.transfer 0x5A) = some (.wdataLast 0x5A) ∧
  decode ⟨.data, ⟨.read, 1⟩, 0, 1⟩ (.transfer 0x00) = some (.rdataFirst 0x00) ∧
  decode ⟨.data, ⟨.read, 2⟩, 0, 1⟩ (.transfer 0x00) = some (.rdataNext 0x00) ∧
  decode ⟨.data, ⟨.read, 0⟩, 0, 0⟩ (.transfer 0x33) = some (.zdata 0x33) ∧
  decode ⟨.done, ⟨.write, 1⟩, 0, 0⟩ (.transfer 0x82) = some (.drain 0x82) ∧
  decode ⟨.confused, ⟨.read, 0⟩, 0, 0⟩ (.transfer 0x82) = some (.conf 0x82)

/-- R22, R33, R38: a snapshot carries the six fields with the codes of R22 (the rest of its form is the model's, log 18); restoring one is
refused unless its code is 0..4 and the record is in R38, and otherwise gives the record back. -/
def Obligations.SnapshotRestore : Prop :=
  (Phase.idle.code = 0 ∧ Phase.address.code = 1 ∧ Phase.data.code = 2 ∧ Phase.done.code = 3 ∧ Phase.confused.code = 4) ∧
  (∀ n : Snapshot, 5 ≤ n.state.toNat → n.restore = .refused .badSnapshot) ∧
  (∀ d : Decoder, d.legal = true → d.snapshot.restore = .next d) ∧
  (∀ d : Decoder, d.legal = false → d.snapshot.restore = .refused .badSnapshot) ∧
  (∀ (n : Snapshot) (d : Decoder), n.restore = .next d → d.snapshot = n ∧ d.legal = true)

/-! ## The operations: selection, result and frame. `afterCall` changes the record, the trace (the exchange shown), the answer port and the
call counter, and nothing else; the record is written as the old one with the fields the rule writes. -/

/-- R101: HDR_RD. -/
def Obligations.HeaderReadStartsAddressPhase : Prop :=
  ∀ (s : State) (h : Byte), s.created = true → s.decoder.legal = true → s.decoder.state = .idle → h.getLsbD 7 = true →
    decode s.decoder.position (.transfer h) = some (.hdrRd (h.extractLsb' 1 6).toNat (h.getLsbD 0)) ∧
    exec (.hdrRd (h.extractLsb' 1 6).toNat (h.getLsbD 0)) s =
      .next (s.afterCall
        { s.decoder with
          state := .address
          header := ⟨.read, h.extractLsb' 1 6⟩
          dataRemaining := BitVec.ofNat 3 (min (h.extractLsb' 1 6).toNat 4)
          addressRemaining := 3 }
        { incoming := h, reply := s.dontCare, status := .ok, request := none })

/-- R102: HDR_WR. -/
def Obligations.HeaderWriteStartsAddressPhase : Prop :=
  ∀ (s : State) (h : Byte), s.created = true → s.decoder.legal = true → s.decoder.state = .idle → h.getLsbD 7 = false →
    decode s.decoder.position (.transfer h) = some (.hdrWr (h.extractLsb' 1 6).toNat (h.getLsbD 0)) ∧
    exec (.hdrWr (h.extractLsb' 1 6).toNat (h.getLsbD 0)) s =
      .next (s.afterCall
        { s.decoder with
          state := .address
          header := ⟨.write, h.extractLsb' 1 6⟩
          dataRemaining := BitVec.ofNat 3 (min (h.extractLsb' 1 6).toNat 4)
          addressRemaining := 3 }
        { incoming := h, reply := s.dontCare, status := .ok, request := none })

/-- R120, R123: ADDR: bits 8k-1..8k-8 of the address become the byte, k = `address_remaining`; every other bit stays. -/
def Obligations.AddressByteFillsItsLane : Prop :=
  ∀ (s : State) (b : Byte), s.created = true → s.decoder.legal = true → s.decoder.state = .address →
    (s.decoder.addressRemaining = 2 ∨ s.decoder.addressRemaining = 3) →
    decode s.decoder.position (.transfer b) = some (.addr b) ∧
    ∃ a : Address,
      (∀ j, j < 24 → a.getLsbD j =
        if 8 * s.decoder.addressRemaining.toNat - 8 ≤ j ∧ j < 8 * s.decoder.addressRemaining.toNat then
          b.getLsbD (j - (8 * s.decoder.addressRemaining.toNat - 8))
        else s.decoder.addressBuffer.getLsbD j) ∧
      exec (.addr b) s =
        .next (s.afterCall
          { s.decoder with addressBuffer := a, addressRemaining := s.decoder.addressRemaining - 1 }
          { incoming := b, reply := s.dontCare, status := .ok, request := none })

/-- R121: ADDR_LAST: bits 7..0 become the byte, the block enters `Data`, and no access is made, even for a read. -/
def Obligations.LastAddressByteEntersData : Prop :=
  ∀ (s : State) (b : Byte), s.created = true → s.decoder.legal = true → s.decoder.state = .address →
    s.decoder.addressRemaining = 1 →
    decode s.decoder.position (.transfer b) = some (.addrLast b) ∧
    exec (.addrLast b) s =
      .next (s.afterCall
        { s.decoder with
          addressBuffer := s.decoder.addressBuffer &&& 0xFFFF00 ||| b.setWidth 24
          addressRemaining := 0
          state := .data }
        { incoming := b, reply := s.dontCare, status := .ok, request := none })

/-- R140, R142: WDATA: the byte goes to wire index N - dr, every other byte of the buffer stays. -/
def Obligations.WriteByteStoredInWireOrder : Prop :=
  ∀ (s : State) (b : Byte), s.created = true → s.decoder.legal = true → s.decoder.state = .data →
    s.decoder.header.direction = .write → 2 ≤ s.decoder.dataRemaining.toNat →
    decode s.decoder.position (.transfer b) = some (.wdata b) ∧
    ∃ buf : Buffer,
      (∀ j : Fin 4, buf[j] =
        if j.val = min s.decoder.header.size.toNat 4 - s.decoder.dataRemaining.toNat then b else s.decoder.dataBuffer[j]) ∧
      exec (.wdata b) s =
        .next (s.afterCall
          { s.decoder with dataBuffer := buf, dataRemaining := s.decoder.dataRemaining - 1 }
          { incoming := b, reply := s.dontCare, status := .ok, request := none })

/-- R141, R143: WDATA_LAST: the byte at index N - 1; one write of the N bytes at the assembled address with the clamped width; `Done`
whatever the answer, with status COLLAB_FAULT exactly when it failed. -/
def Obligations.LastWriteByteDispatchesWrite : Prop :=
  ∀ (s : State) (b : Byte), s.created = true → s.decoder.legal = true → s.decoder.state = .data →
    s.decoder.header.direction = .write → s.decoder.dataRemaining = 1 →
    decode s.decoder.position (.transfer b) = some (.wdataLast b) ∧
    ∃ (n : Nat) (buf : Buffer) (v : List Byte),
      n = min s.decoder.header.size.toNat 4 ∧ 1 ≤ n ∧
      (∀ j : Fin 4, buf[j] = if j.val = n - 1 then b else s.decoder.dataBuffer[j]) ∧
      v.length = n ∧ (∀ j : Fin 4, j.val < n → v[j.val]? = some buf[j]) ∧
      exec (.wdataLast b) s =
        .next (s.afterCall
          { s.decoder with dataBuffer := buf, dataRemaining := 0, state := .done }
          { incoming := b
            reply := s.dontCare
            status := if s.response.fail then .collabFault .write s.decoder.addressBuffer n else .ok
            request := some (.write s.decoder.addressBuffer n v) })

/-- R160: RDATA_FIRST, both outcomes: one read; on success the N bytes buffered and the first one replied; on failure the buffer kept,
`Done`, COLLAB_FAULT and a don't-care reply. -/
def Obligations.FirstReadByteDispatchesRead : Prop :=
  ∀ (s : State) (b : Byte), s.created = true → s.decoder.legal = true → s.decoder.state = .data →
    s.decoder.header.direction = .read → 0 < min s.decoder.header.size.toNat 4 →
    s.decoder.dataRemaining.toNat = min s.decoder.header.size.toNat 4 →
    decode s.decoder.position (.transfer b) = some (.rdataFirst b) ∧
    ∃ n, n = min s.decoder.header.size.toNat 4 ∧
      (s.response.fail = true →
        exec (.rdataFirst b) s =
          .next (s.afterCall
            { s.decoder with dataRemaining := 0, state := .done }
            { incoming := b
              reply := s.dontCare
              status := .collabFault .read s.decoder.addressBuffer n
              request := some (.read s.decoder.addressBuffer n) })) ∧
      (s.response.fail = false → ∃ buf : Buffer,
        (∀ j : Fin 4, buf[j] = if j.val < n then s.response.data[j] else s.decoder.dataBuffer[j]) ∧
        exec (.rdataFirst b) s =
          .next (s.afterCall
            { s.decoder with
              dataBuffer := buf
              dataRemaining := s.decoder.dataRemaining - 1
              state := if n = 1 then .done else .data }
            { incoming := b
              reply := s.response.data[0]
              status := .ok
              request := some (.read s.decoder.addressBuffer n) }))

/-- R161: RDATA_NEXT: the buffered byte at index N - dr, `Done` when the count reaches 0, no access. -/
def Obligations.NextReadByteStreamsBuffer : Prop :=
  ∀ (s : State) (b : Byte), s.created = true → s.decoder.legal = true → s.decoder.state = .data →
    s.decoder.header.direction = .read → 1 ≤ s.decoder.dataRemaining.toNat →
    s.decoder.dataRemaining.toNat < min s.decoder.header.size.toNat 4 →
    decode s.decoder.position (.transfer b) = some (.rdataNext b) ∧
    ∃ j : Fin 4, j.val = min s.decoder.header.size.toNat 4 - s.decoder.dataRemaining.toNat ∧
      exec (.rdataNext b) s =
        .next (s.afterCall
          { s.decoder with
            dataRemaining := s.decoder.dataRemaining - 1
            state := if s.decoder.dataRemaining = 1 then .done else .data }
          { incoming := b, reply := s.decoder.dataBuffer[j], status := .ok, request := none })

/-- R180: ZDATA, for either direction: violation, `Confused`, no access, only `state` written. -/
def Obligations.DataAgainstZeroSizeConfuses : Prop :=
  ∀ (s : State) (b : Byte), s.created = true → s.decoder.legal = true → s.decoder.state = .data →
    s.decoder.header.size = 0 →
    decode s.decoder.position (.transfer b) = some (.zdata b) ∧
    exec (.zdata b) s =
      .next (s.afterCall { s.decoder with state := .confused }
        { incoming := b, reply := s.dontCare, status := .violation .zeroSizeData, request := none })

/-- R183: DRAIN: no field written, don't-care reply, status OK, no access. -/
def Obligations.DoneDrainsEveryByte : Prop :=
  ∀ (s : State) (b : Byte), s.created = true → s.decoder.legal = true → s.decoder.state = .done →
    decode s.decoder.position (.transfer b) = some (.drain b) ∧
    exec (.drain b) s =
      .next (s.afterCall s.decoder { incoming := b, reply := s.dontCare, status := .ok, request := none })

/-- R186: CONF: no field written, don't-care reply, status OK (the violation was reported once), no access. -/
def Obligations.ConfusedDrainsEveryByte : Prop :=
  ∀ (s : State) (b : Byte), s.created = true → s.decoder.legal = true → s.decoder.state = .confused →
    decode s.decoder.position (.transfer b) = some (.conf b) ∧
    exec (.conf b) s =
      .next (s.afterCall s.decoder { incoming := b, reply := s.dontCare, status := .ok, request := none })

/-- R200, R40: RESET, from any state of a created decoder: every field at its reset value; no exchange, so no reply, status or access. -/
def Obligations.ResetRestoresResetState : Prop :=
  ∀ s : State, s.created = true →
    exec .reset s =
      .next
        { decoder :=
            { state := .idle
              header := ⟨.write, 0⟩
              addressRemaining := 3
              dataRemaining := 0
              addressBuffer := 0
              dataBuffer := #v[0, 0, 0, 0] }
          created := true
          inputs := s.inputs
          rsp := none
          draws := s.draws
          trace := .deselected :: s.trace }

/-- R260, R261: INIT: the record is the one `reset()` leaves, no exchange is made; from any state (that it may come after another creation
is the model's reading of R261, log 5). -/
def Obligations.CreationGivesResetState : Prop :=
  ∀ s : State,
    exec .init s =
        .next { s with decoder := State.reset.decoder, created := true, rsp := none, trace := .created :: s.trace } ∧
    (s.created = true → ∃ t u, exec .init s = .next t ∧ exec .reset s = .next u ∧ t.decoder = u.decoder)

/-- R40, R260: the machine right after reset: every field of the record. -/
def Obligations.ResetStateFields : Prop :=
  State.reset.decoder.state = .idle ∧ State.reset.decoder.addressRemaining = 3 ∧
  State.reset.decoder.header = ⟨.write, 0⟩ ∧ State.reset.decoder.dataRemaining = 0 ∧
  State.reset.decoder.addressBuffer = 0 ∧ State.reset.decoder.dataBuffer = #v[0, 0, 0, 0]

/-! ## The step -/

/-- R100, R67: a step on a `transfer` whose byte selects `i` is `exec i` on the state with the event taken and the collaborator's answer on
its port. -/
def Obligations.StepRunsSelectedOperation : Prop :=
  ∀ (s : State) (b : Byte) (r : Option Response) (rest : List Input) (i : Instr),
    s.created = true → s.decoder.legal = true → s.inputs = .transfer b r :: rest →
    decode s.decoder.position (.transfer b) = some i → step s = exec i { s with inputs := rest, rsp := r }

/-- R90, R260: a step on `reset()` or on creation runs RESET or INIT. -/
def Obligations.StepRunsBoundaryEvents : Prop :=
  ∀ (s : State) (rest : List Input),
    (s.inputs = .deselect :: rest → step s = exec .reset { s with inputs := rest, rsp := none }) ∧
    (s.inputs = .create :: rest → step s = exec .init { s with inputs := rest, rsp := none })

/-- R236, R266, R262 (1): with no event the state is held; overlapping events are refused; before creation a `transfer` and a `reset()` are
refused (the refusal before creation is the model's, log 4; holding with no event is the model's reading of R236, log 9). -/
def Obligations.StepOutsideAnEvent : Prop :=
  ∀ (s : State) (rest : List Input),
    (s.inputs = [] → step s = .next s) ∧
    (s.inputs = .overlapping :: rest → step s = .refused .overlapping) ∧
    (s.created = false → ∀ b r, s.inputs = .transfer b r :: rest → step s = .refused .notCreated) ∧
    (s.created = false → s.inputs = .deselect :: rest → step s = .refused .notCreated)

/-- A word placed for the host is what the next step runs, from any state (log 11). -/
def Obligations.PlacedWordIsRun : Prop :=
  ∀ (s : State) (w : Nat) (i : Instr), decodeTableWord 8 w = some i →
    step (s.withFetchWord 8 w) = exec i { s with decoder := State.reset.decoder, created := true, rsp := none } ∧
    ∃ t, step (s.withFetchWord 8 w) = .next t

/-! ## Whole-machine rules -/

/-- R38: the table of legal states, row by row, and every step keeps a created decoder in it. -/
def Obligations.LegalStatesInvariant : Prop :=
  (∀ d : Decoder, d.legal = true ↔
    (d.state = .idle ∧ d = State.reset.decoder) ∨
    (d.state = .address ∧ 1 ≤ d.addressRemaining.toNat ∧ d.addressRemaining.toNat ≤ 3 ∧
      d.dataRemaining.toNat = min d.header.size.toNat 4) ∨
    (d.state = .data ∧ d.addressRemaining = 0 ∧
      ((min d.header.size.toNat 4 = 0 ∧ d.dataRemaining = 0) ∨
        (1 ≤ d.dataRemaining.toNat ∧ d.dataRemaining.toNat ≤ min d.header.size.toNat 4))) ∨
    (d.state = .done ∧ d.addressRemaining = 0 ∧ d.dataRemaining = 0) ∨
    (d.state = .confused ∧ d.addressRemaining = 0 ∧ d.dataRemaining = 0 ∧ d.header.size = 0)) ∧
  ∀ s t : State, s.Inv → step s = .next t → t.Inv

/-- R38, R92: no event is stuck: in a legal state of a created decoder a step on any event but an overlap gives a next state. -/
def Obligations.EveryEventHasAStep : Prop :=
  ∀ (s : State) (x : Input) (rest : List Input), s.created = true → s.decoder.legal = true → s.inputs = x :: rest →
    x ≠ .overlapping → ∃ t, step s = .next t ∧ t.inputs = rest ∧ t.created = true ∧ t.decoder.legal = true

/-- R105: the next-state table, with its conditions. -/
def Obligations.NextStateTable : Prop :=
  ∀ (s t : State) (i : Instr), exec i s = .next t →
    match i with
    | .hdrRd _ _ | .hdrWr _ _ => s.decoder.state = .idle ∧ t.decoder.state = .address
    | .addr _ =>
      s.decoder.state = .address ∧ (s.decoder.addressRemaining = 2 ∨ s.decoder.addressRemaining = 3) ∧
        t.decoder.state = .address
    | .addrLast _ => s.decoder.state = .address ∧ s.decoder.addressRemaining = 1 ∧ t.decoder.state = .data
    | .wdata _ =>
      s.decoder.state = .data ∧ s.decoder.header.direction = .write ∧ 2 ≤ s.decoder.dataRemaining.toNat ∧
        t.decoder.state = .data
    | .wdataLast _ =>
      s.decoder.state = .data ∧ s.decoder.header.direction = .write ∧ s.decoder.dataRemaining.toNat = 1 ∧
        t.decoder.state = .done
    | .rdataFirst _ =>
      s.decoder.state = .data ∧ s.decoder.header.direction = .read ∧ s.decoder.dataRemaining.toNat = s.decoder.N ∧
        1 ≤ s.decoder.N ∧ t.decoder.state = if s.response.fail = true ∨ s.decoder.N = 1 then .done else .data
    | .rdataNext _ =>
      s.decoder.state = .data ∧ s.decoder.header.direction = .read ∧ 1 ≤ s.decoder.dataRemaining.toNat ∧
        s.decoder.dataRemaining.toNat < s.decoder.N ∧
        t.decoder.state = if s.decoder.dataRemaining = 1 then .done else .data
    | .zdata _ => s.decoder.state = .data ∧ s.decoder.N = 0 ∧ t.decoder.state = .confused
    | .drain _ => s.decoder.state = .done ∧ t.decoder.state = .done
    | .conf _ => s.decoder.state = .confused ∧ t.decoder.state = .confused
    | .reset | .init => t.decoder.state = .idle

/-- R23: `Idle` is entered only by creation and by `reset()`; R26, R27: only they leave `Done` and `Confused`. -/
def Obligations.OnlyBoundaryEntersIdleOrLeavesSinks : Prop :=
  ∀ (s t : State) (i : Instr), exec i s = .next t → i ≠ .reset → i ≠ .init →
    t.decoder.state ≠ .idle ∧
    (s.decoder.state = .done ∨ s.decoder.state = .confused → t.decoder = s.decoder)

/-- R225: the status of every operation; RESET has none, since it shows no exchange. -/
def Obligations.StatusByOperation : Prop :=
  (∀ (s t : State) (i : Instr) (x : Exchange), exec i s = .next t → t.trace = .exchange x :: s.trace →
    match i with
    | .wdataLast _ =>
      x.status = if s.response.fail then .collabFault .write s.decoder.addressBuffer s.decoder.N else .ok
    | .rdataFirst _ =>
      x.status = if s.response.fail then .collabFault .read s.decoder.addressBuffer s.decoder.N else .ok
    | .zdata _ => x.status = .violation .zeroSizeData
    | .hdrRd _ _ | .hdrWr _ _ | .addr _ | .addrLast _ | .wdata _ | .rdataNext _ | .drain _ | .conf _ => x.status = .ok
    | .reset | .init => False) ∧
  ∀ s t : State, exec .reset s = .next t → t.trace = .deselected :: s.trace

/-- R223: the status codes; 3 is never returned. -/
def Obligations.StatusCodes : Prop :=
  Status.ok.code = 0 ∧ (∀ c, (Status.violation c).code = 1) ∧ (∀ k a n, (Status.collabFault k a n).code = 2) ∧
  ∀ x : Status, x.code ≠ 3

/-- R227: error entry writes no field beyond the operation's own: `Confused` for a violation, the count at 0 and `Done` for a failed access
(whose write also stored its last byte, R141). -/
def Obligations.ErrorEntryWritesNothingElse : Prop :=
  ∀ (s t : State) (i : Instr) (x : Exchange), exec i s = .next t → t.trace = .exchange x :: s.trace →
    (∀ c, x.status = .violation c → t.decoder = { s.decoder with state := .confused } ∧ x.request = none) ∧
    (∀ a n, x.status = .collabFault .read a n →
      t.decoder = { s.decoder with dataRemaining := 0, state := .done } ∧ x.request = some (.read a n)) ∧
    (∀ a n, x.status = .collabFault .write a n →
      t.decoder = { s.decoder with dataRemaining := 0, state := .done, dataBuffer := t.decoder.dataBuffer } ∧
        ∃ v, x.request = some (.write a n v))

/-- R52, R53, R54, R61, R62, R66: only WDATA_LAST and RDATA_FIRST make an access: of the address as assembled and the clamped width, 1..4,
the write's vector having that many bytes; every other operation makes none, and RESET and INIT show no exchange at all. -/
def Obligations.AccessOnlyFromTwoOperations : Prop :=
  ∀ (s t : State) (i : Instr), exec i s = .next t →
    match i with
    | .wdataLast _ =>
      ∃ x v, t.trace = .exchange x :: s.trace ∧ x.request = some (.write s.decoder.addressBuffer (min s.decoder.header.size.toNat 4) v) ∧
        v.length = min s.decoder.header.size.toNat 4 ∧ 1 ≤ v.length ∧ v.length ≤ 4
    | .rdataFirst _ =>
      ∃ x n, t.trace = .exchange x :: s.trace ∧ x.request = some (.read s.decoder.addressBuffer n) ∧
        n = min s.decoder.header.size.toNat 4 ∧ 1 ≤ n ∧ n ≤ 4
    | .reset => t.trace = .deselected :: s.trace
    | .init => t.trace = .created :: s.trace
    | _ => ∃ x, t.trace = .exchange x :: s.trace ∧ x.request = none

/-- R91: what the request ports carry for an access an operation makes: kind, address, width in 3 bits, and the write vector in the lanes
below the width (the other lanes are unused). -/
def Obligations.RequestPorts : Prop :=
  (reqKind none = 0 ∧ reqAddr none = none ∧ reqWidth none = none) ∧
  ∀ (s t : State) (i : Instr) (x : Exchange), exec i s = .next t → t.trace = .exchange x :: s.trace →
    (∀ a n, x.request = some (.read a n) → reqKind x.request = 1 ∧ reqAddr x.request = some a ∧
      (reqWidth x.request).map BitVec.toNat = some n) ∧
    (∀ a n v, x.request = some (.write a n v) → reqKind x.request = 2 ∧ reqAddr x.request = some a ∧
      (reqWidth x.request).map BitVec.toNat = some n ∧
      ∀ j : Fin 4, (reqWData x.request)[j] = if j.val < n then v[j.val]? else none)

/-- R37, the W columns: which operation writes which field of the record; all others keep it. -/
def Obligations.AccessMapFrame : Prop :=
  ∀ (s t : State) (i : Instr), exec i s = .next t →
    match i with
    | .hdrRd _ _ | .hdrWr _ _ =>
      t.decoder.addressBuffer = s.decoder.addressBuffer ∧ t.decoder.dataBuffer = s.decoder.dataBuffer
    | .addr _ | .addrLast _ =>
      t.decoder.header = s.decoder.header ∧ t.decoder.dataRemaining = s.decoder.dataRemaining ∧
        t.decoder.dataBuffer = s.decoder.dataBuffer
    | .wdata _ | .wdataLast _ | .rdataFirst _ =>
      t.decoder.header = s.decoder.header ∧ t.decoder.addressRemaining = s.decoder.addressRemaining ∧
        t.decoder.addressBuffer = s.decoder.addressBuffer
    | .rdataNext _ =>
      t.decoder.header = s.decoder.header ∧ t.decoder.addressRemaining = s.decoder.addressRemaining ∧
        t.decoder.addressBuffer = s.decoder.addressBuffer ∧ t.decoder.dataBuffer = s.decoder.dataBuffer
    | .zdata _ => t.decoder = { s.decoder with state := t.decoder.state }
    | .drain _ | .conf _ => t.decoder = s.decoder
    | .reset | .init => t.decoder = State.reset.decoder

/-- R103, P4: every `transfer`, in every state of R38 and under every outcome, gives exactly one reply, paired with its byte; `reset()` gives
none; over any run, as many reply bytes were emitted as bytes came in. -/
def Obligations.DuplexBalance : Prop :=
  (∀ (s : State) (b : Byte) (r : Option Response) (rest : List Input), s.created = true → s.decoder.legal = true →
    s.inputs = .transfer b r :: rest → ∃ t x, step s = .next t ∧ t.trace = .exchange x :: s.trace ∧ x.incoming = b) ∧
  (∀ (s : State) (rest : List Input), s.created = true → s.inputs = .deselect :: rest →
    ∃ t, step s = .next t ∧ t.trace = .deselected :: s.trace) ∧
  ∀ (k : Nat) (s t : State), s.run k = .next t →
    repliesIn t.trace = repliesIn s.trace + (s.inputs.take k).countP Input.isTransfer ∧ t.inputs = s.inputs.drop k

/-- R39, R205: every step keeps the access count of the transaction at what the record says (0, 1, and 1 only after a dispatch). -/
def Obligations.AccessCountInvariant : Prop :=
  (∀ s t : State, s.Counted → step s = .next t → t.Counted) ∧
  (∀ s : State, s.Counted → s.created = true → s.accesses.length ≤ 1 ∧
    (s.decoder.state = .idle ∨ s.decoder.state = .address ∨ s.decoder.state = .confused → s.accesses = []) ∧
    (s.decoder.state = .done → s.accesses.length = 1))

/-- R124, R142, R143, R109, P2, P3: every step keeps the record at what the bytes of the current chip-select period say it is: the header and
the address as received, the data bytes in wire order, and the accesses made, with their address, width and written bytes. -/
def Obligations.RecordFollowsTheWire : Prop :=
  ∀ s t : State, s.FollowsWire → step s = .next t → t.FollowsWire

/-- The three invariants hold right after reset (where nothing was shown: the model's choice, log 10). -/
def Obligations.ResetMeetsInvariants : Prop :=
  State.reset.Inv ∧ State.reset.Counted ∧ State.reset.FollowsWire

/-- R187, R184, R264: in `Done` and in `Confused` any number of bytes without a `reset()` leaves the record and makes no access, and every one
gets its reply with status OK. -/
def Obligations.SinksHoldUntilReset : Prop :=
  ∀ (ins rest : List Input) (s : State), s.created = true → s.decoder.legal = true →
    (s.decoder.state = .done ∨ s.decoder.state = .confused) → s.inputs = ins ++ rest → ins.all Input.isTransfer = true →
    ∃ t, s.run ins.length = .next t ∧ t.decoder = s.decoder ∧ t.inputs = rest ∧ t.accesses = s.accesses ∧
      t.exchanges.length = s.exchanges.length + ins.length ∧
      ∀ x ∈ t.exchanges.drop s.exchanges.length, x.status = .ok

/-- R143, R88, R62, P3: a whole write transaction: the header, three address bytes and N data bytes, with any answers, make exactly one access,
the write of those N bytes at the address, on the byte 4 + N, and end in `Done`. -/
def Obligations.WriteTransaction : Prop :=
  ∀ (s : State) (h a2 a1 a0 : Byte) (ds : List Byte) (rs : List (Option Response)) (rest : List Input),
    s.created = true → s.decoder = State.reset.decoder → s.exchanges = [] → h.toNat < 128 →
    ds.length = min (h.toNat / 2 % 64) 4 → 1 ≤ ds.length → rs.length = 4 + ds.length →
    s.inputs = List.zipWith Input.transfer ([h, a2, a1, a0] ++ ds) rs ++ rest →
    (∀ k, k ≤ 3 + ds.length → ∃ u, s.run k = .next u ∧ u.accesses = []) ∧
    ∃ t, s.run (4 + ds.length) = .next t ∧ t.decoder.state = .done ∧ t.inputs = rest ∧
      t.accesses = [.write (assembled a2 a1 a0) ds.length ds] ∧ t.decoder.dataBuffer.toList.take ds.length = ds

/-- R163, R59, R57: a whole read transaction whose read succeeds: one read of N bytes at the address, and the replies on the N data bytes are
the answer's bytes in order, whatever the bytes coming in. -/
def Obligations.ReadTransaction : Prop :=
  ∀ (s : State) (h a2 a1 a0 : Byte) (ds : List Byte) (rs : List (Option Response)) (r : Response) (rest : List Input),
    s.created = true → s.decoder = State.reset.decoder → s.exchanges = [] → 128 ≤ h.toNat →
    ds.length = min (h.toNat / 2 % 64) 4 → 1 ≤ ds.length → rs.length = 4 + ds.length →
    rs[4]? = some (some r) → r.fail = false →
    s.inputs = List.zipWith Input.transfer ([h, a2, a1, a0] ++ ds) rs ++ rest →
    (∀ k, k ≤ 4 → ∃ u, s.run k = .next u ∧ u.accesses = []) ∧
    (∃ v, s.run 5 = .next v ∧ v.accesses = [.read (assembled a2 a1 a0) ds.length]) ∧
    ∃ t, s.run (4 + ds.length) = .next t ∧ t.decoder.state = .done ∧ t.inputs = rest ∧
      t.accesses = [.read (assembled a2 a1 a0) ds.length] ∧
      (t.exchanges.drop 4).map Exchange.reply = r.data.toList.take ds.length

/-- R95: the pseudo-operations as the rules run them from the reset record: `WRITE n, A, d0..` makes the one write of those bytes at A on its
last byte, `READ n, A` the one read, whatever the answers; each ends in the reset record after its `DESEL`. -/
def Obligations.PseudoOperationsMakeOneAccess : Prop :=
  ∀ (s : State) (n : Nat) (a : Address) (ds : List Byte) (rs : List (Option Response)) (rest : List Input),
    s.created = true → s.decoder = State.reset.decoder → s.exchanges = [] → 1 ≤ n → n ≤ 4 → rs.length = 4 + n →
    (ds.length = n → s.inputs = writeProgram n a ds rs ++ rest →
      ∃ t u, s.run (4 + n) = .next t ∧ t.accesses = [.write a n ds] ∧
        s.run (5 + n) = .next u ∧ u.decoder = State.reset.decoder ∧ u.inputs = rest) ∧
    (s.inputs = readProgram n a rs ++ rest →
      ∃ t u, s.run (4 + n) = .next t ∧ t.accesses = [.read a n] ∧
        s.run (5 + n) = .next u ∧ u.decoder = State.reset.decoder ∧ u.inputs = rest)

/-- R201, P5: any number of `reset()` events in a row leave the record a single one leaves, and show nothing but themselves, so make no
access. -/
def Obligations.ResetIdempotent : Prop :=
  ∀ (n : Nat) (s : State) (rest : List Input), s.created = true →
    s.inputs = List.replicate (n + 1) Input.deselect ++ rest →
    ∃ t u, s.run 1 = .next t ∧ s.run (n + 1) = .next u ∧ u.decoder = t.decoder ∧ t.decoder = State.reset.decoder ∧
      u.trace = List.replicate (n + 1) TraceEntry.deselected ++ s.trace ∧ u.accesses = []

/-- R202, P6: after `reset()` nothing of the earlier transactions shows. Two machines with whatever records and traces, reset, with the same
events to come: where the environment states every answer, the records, the bytes in, the statuses and the accesses agree at every point, whatever
the don't-care draws; where the draws agree, all that is shown agrees. -/
def Obligations.NoLeakageAcrossReset : Prop :=
  ∀ (s₁ s₂ u₁ u₂ : State), s₁.created = true → s₂.created = true → s₁.inputs = s₂.inputs →
    exec .reset s₁ = .next u₁ → exec .reset s₂ = .next u₂ →
    ∀ (k : Nat) (t₁ : State), u₁.run k = .next t₁ →
      (s₁.inputs.all Input.answered = true →
        ∃ t₂, u₂.run k = .next t₂ ∧ t₁.decoder = t₂.decoder ∧ t₁.inputs = t₂.inputs ∧
          t₁.exchanges.map (fun x => (x.incoming, x.status, x.request)) =
            t₂.exchanges.map (fun x => (x.incoming, x.status, x.request))) ∧
      (s₁.draws = s₂.draws →
        ∃ t₂, u₂.run k = .next t₂ ∧ t₁.decoder = t₂.decoder ∧ t₁.inputs = t₂.inputs ∧ t₁.exchanges = t₂.exchanges)

/-- R100, R107: the don't-care draw reaches nothing but a don't-care reply: with the answer stated, changing it changes neither the record nor
the status nor the access, nor the reply of a read data byte. -/
def Obligations.DontCareReachesOnlyReplies : Prop :=
  ∀ (s t : State) (i : Instr) (n : Nat) (r : Response), s.rsp = some r → exec i s = .next t →
    ∃ t', exec i { s with draws := n } = .next t' ∧ t'.decoder = t.decoder ∧
      ∀ x, t.trace = .exchange x :: s.trace → ∃ x', t'.trace = .exchange x' :: s.trace ∧ x'.incoming = x.incoming ∧
        x'.status = x.status ∧ x'.request = x.request ∧
        ((∃ b, i = .rdataNext b) ∨ (∃ b, i = .rdataFirst b) ∧ r.fail = false → x'.reply = x.reply)

/-- R162: in the read data phase the incoming byte is ignored: another byte gives the same record and reply. -/
def Obligations.ReadPhaseIgnoresIncomingByte : Prop :=
  ∀ (s t : State) (b b' : Byte),
    (exec (.rdataFirst b) s = .next t → ∃ t', exec (.rdataFirst b') s = .next t' ∧ t'.decoder = t.decoder ∧
      t'.exchanges.map Exchange.reply = t.exchanges.map Exchange.reply) ∧
    (exec (.rdataNext b) s = .next t → ∃ t', exec (.rdataNext b') s = .next t' ∧ t'.decoder = t.decoder ∧
      t'.exchanges.map Exchange.reply = t.exchanges.map Exchange.reply)

/-- R91, R55: the answer's bytes at and above the width are ignored, and an operation that makes no access ignores the whole answer. -/
def Obligations.UnusedAnswerIgnored : Prop :=
  ∀ (s : State) (r r' : Response),
    (∀ b, r.fail = r'.fail → (∀ j : Fin 4, j.val < s.decoder.N → r.data[j] = r'.data[j]) →
      exec (.rdataFirst b) { s with rsp := some r } = exec (.rdataFirst b) { s with rsp := some r' }) ∧
    (∀ b, r.fail = r'.fail → exec (.wdataLast b) { s with rsp := some r } = exec (.wdataLast b) { s with rsp := some r' }) ∧
    (∀ i : Instr, (∀ b, i ≠ .rdataFirst b) → (∀ b, i ≠ .wdataLast b) →
      exec i { s with rsp := some r } = exec i { s with rsp := some r' })

/-- R14, R58, R142: the big-endian integer of a vector: below 256^n, the first byte most significant, each byte j of n with weight 256^(n-1-j);
the device's other order reads it reversed. -/
def Obligations.BigEndianValue : Prop :=
  (∀ v : List Byte, beValue v < 256 ^ v.length) ∧
  (∀ (v : List Byte) (b : Byte), beValue (b :: v) = b.toNat * 256 ^ v.length + beValue v) ∧
  (∀ v w : List Byte, v.length = w.length → beValue v = beValue w → v = w) ∧
  (∀ v : List Byte, collaboratorValue true v = beValue v ∧ collaboratorValue false v = beValue v.reverse) ∧
  (∀ a2 a1 a0 : Byte, (assembled a2 a1 a0).toNat = beValue [a2, a1, a0])

/-- R163, R160, R184: the whole read transaction under any answer, stated or free (log 2), where `r` is the answer the fifth call meets: if it
does not fail, its bytes are the replies on the data bytes; if it fails, the first data byte reports it and the others drain with status OK.
Either way the one read is the only access. -/
def Obligations.ReadTransactionUnderAnyAnswer : Prop :=
  ∀ (s : State) (h a2 a1 a0 : Byte) (ds : List Byte) (rs : List (Option Response)) (q : Option Response) (rest : List Input),
    s.created = true → s.decoder = State.reset.decoder → s.exchanges = [] → 128 ≤ h.toNat →
    ds.length = min (h.toNat / 2 % 64) 4 → 1 ≤ ds.length → rs.length = 4 + ds.length → rs[4]? = some q →
    s.inputs = List.zipWith Input.transfer ([h, a2, a1, a0] ++ ds) rs ++ rest →
    ∃ (u t : State) (r : Response), s.run 4 = .next u ∧ u.accesses = [] ∧ r = ({ u with rsp := q } : State).response ∧
      s.run (4 + ds.length) = .next t ∧ t.decoder.state = .done ∧ t.inputs = rest ∧
      t.accesses = [.read (assembled a2 a1 a0) ds.length] ∧
      (r.fail = false → (t.exchanges.drop 4).map Exchange.reply = r.data.toList.take ds.length ∧
        (t.exchanges.drop 4).map Exchange.status = List.replicate ds.length .ok) ∧
      (r.fail = true → (t.exchanges.drop 4).map Exchange.status =
        .collabFault .read (assembled a2 a1 a0) ds.length :: List.replicate (ds.length - 1) .ok)
end

