-- ==== Sys2Proof/Laws/Counts.lean ====
section
/-! SUPPORT. The constants as the numbers the spec gives them, and the two counters of R29 and R30: their values, and counting down from
a value above 0. -/

namespace Sys2Proof.Config

/-! The values that the spec states (R9, R29, R30), for the simplifier and for arithmetic. -/

@[simp] theorem addrBytes_value : addrBytes = 3 := rfl
@[simp] theorem maxDataBytes_value : maxDataBytes = 4 := rfl
@[simp] theorem sizeBits_value : sizeBits = 6 := rfl
@[simp] theorem addrWidth_value : addrWidth = 24 := rfl
theorem addrCountBits_value : addrCountBits = 2 := rfl
theorem dataCountBits_value : dataCountBits = 3 := rfl
@[simp] theorem two_pow_addrCountBits : 2 ^ addrCountBits = 4 := rfl
@[simp] theorem two_pow_dataCountBits : 2 ^ dataCountBits = 8 := rfl

end Sys2Proof.Config

namespace Sys2Proof

@[simp] theorem toNat_addrCount (n : Nat) (h : n ≤ Config.addrBytes) : (BitVec.ofNat Config.addrCountBits n).toNat = n := by
  rw [BitVec.toNat_ofNat, Nat.mod_eq_of_lt (Nat.lt_of_le_of_lt h Config.addrBytes_lt)]

@[simp] theorem toNat_dataCount (n : Nat) (h : n ≤ Config.maxDataBytes) : (BitVec.ofNat Config.dataCountBits n).toNat = n := by
  rw [BitVec.toNat_ofNat, Nat.mod_eq_of_lt (Nat.lt_of_le_of_lt h Config.maxDataBytes_lt)]

/-- R92's condition of ADDR. -/
theorem addrCount_two_or_three (a : BitVec Config.addrCountBits) :
    (2 ≤ a.toNat ∧ a.toNat ≤ Config.addrBytes) ↔ (a = 2 ∨ a = 3) := by revert a; decide

/-- R38's range of the count in `Address`. -/
theorem addrCount_range (a : BitVec Config.addrCountBits) :
    (1 ≤ a.toNat ∧ a.toNat ≤ Config.addrBytes) ↔ (a = 1 ∨ a = 2 ∨ a = 3) := by revert a; decide

theorem addrCount_eq_one (a : BitVec Config.addrCountBits) : a = 1 ↔ a.toNat = 1 := by revert a; decide

theorem dataCount_eq_one (m : BitVec Config.dataCountBits) : m = 1 ↔ m.toNat = 1 := by revert m; decide

/-- R30: decremented only from a value above 0. -/
theorem dataCount_pred (m : BitVec Config.dataCountBits) : 1 ≤ m.toNat → BitVec.ofNat Config.dataCountBits (m.toNat - 1) = m - 1 := by
  revert m; decide

/-- R29: decremented only from a value above 0. -/
theorem addrCount_pred (a : BitVec Config.addrCountBits) : 1 ≤ a.toNat → BitVec.ofNat Config.addrCountBits (a.toNat - 1) = a - 1 := by
  revert a; decide

end Sys2Proof
end

