-- ==== Sys2Proof/Laws/State.lean ====
section
/-! SUPPORT. One lemma per field per update of State, so that no proof unfolds an update. -/

namespace Sys2Proof.Machine

@[simp] theorem State.complete_decoder (s : State) (b : Byte) (e : Effect) : (s.complete b e).decoder = e.decoder := rfl
@[simp] theorem State.complete_created (s : State) (b : Byte) (e : Effect) : (s.complete b e).created = s.created := rfl
@[simp] theorem State.complete_inputs (s : State) (b : Byte) (e : Effect) : (s.complete b e).inputs = s.inputs := rfl
@[simp] theorem State.complete_rsp (s : State) (b : Byte) (e : Effect) : (s.complete b e).rsp = none := rfl
@[simp] theorem State.complete_draws (s : State) (b : Byte) (e : Effect) : (s.complete b e).draws = s.draws + 1 := rfl
@[simp] theorem State.complete_trace (s : State) (b : Byte) (e : Effect) : (s.complete b e).trace = .exchange { incoming := b, reply := e.reply, status := e.status, request := e.request } :: s.trace := rfl

@[simp] theorem State.boundary_decoder (s : State) (m : TraceEntry) : (s.boundary m).decoder = Decoder.reset := rfl
@[simp] theorem State.boundary_created (s : State) (m : TraceEntry) : (s.boundary m).created = true := rfl
@[simp] theorem State.boundary_inputs (s : State) (m : TraceEntry) : (s.boundary m).inputs = s.inputs := rfl
@[simp] theorem State.boundary_rsp (s : State) (m : TraceEntry) : (s.boundary m).rsp = none := rfl
@[simp] theorem State.boundary_draws (s : State) (m : TraceEntry) : (s.boundary m).draws = s.draws := rfl
@[simp] theorem State.boundary_trace (s : State) (m : TraceEntry) : (s.boundary m).trace = m :: s.trace := rfl

@[simp] theorem State.take_decoder (s : State) (rest : List Input) (r : Option Response) : (s.take rest r).decoder = s.decoder := rfl
@[simp] theorem State.take_created (s : State) (rest : List Input) (r : Option Response) : (s.take rest r).created = s.created := rfl
@[simp] theorem State.take_inputs (s : State) (rest : List Input) (r : Option Response) : (s.take rest r).inputs = rest := rfl
@[simp] theorem State.take_rsp (s : State) (rest : List Input) (r : Option Response) : (s.take rest r).rsp = r := rfl
@[simp] theorem State.take_draws (s : State) (rest : List Input) (r : Option Response) : (s.take rest r).draws = s.draws := rfl
@[simp] theorem State.take_trace (s : State) (rest : List Input) (r : Option Response) : (s.take rest r).trace = s.trace := rfl

@[simp] theorem State.afterCall_decoder (s : State) (d : Decoder) (x : Exchange) : (s.afterCall d x).decoder = d := rfl
@[simp] theorem State.afterCall_created (s : State) (d : Decoder) (x : Exchange) : (s.afterCall d x).created = s.created := rfl
@[simp] theorem State.afterCall_inputs (s : State) (d : Decoder) (x : Exchange) : (s.afterCall d x).inputs = s.inputs := rfl
@[simp] theorem State.afterCall_rsp (s : State) (d : Decoder) (x : Exchange) : (s.afterCall d x).rsp = none := rfl
@[simp] theorem State.afterCall_draws (s : State) (d : Decoder) (x : Exchange) : (s.afterCall d x).draws = s.draws + 1 := rfl
@[simp] theorem State.afterCall_trace (s : State) (d : Decoder) (x : Exchange) : (s.afterCall d x).trace = .exchange x :: s.trace := rfl

@[simp] theorem Decoder.acceptHeader_state (d : Decoder) (dir : Direction) (size : BitVec Config.sizeBits) : (d.acceptHeader dir size).state = .address := rfl
@[simp] theorem Decoder.acceptHeader_header (d : Decoder) (dir : Direction) (size : BitVec Config.sizeBits) : (d.acceptHeader dir size).header = ⟨dir, size⟩ := rfl
@[simp] theorem Decoder.acceptHeader_addressRemaining (d : Decoder) (dir : Direction) (size : BitVec Config.sizeBits) : (d.acceptHeader dir size).addressRemaining = BitVec.ofNat Config.addrCountBits Config.addrBytes := rfl
@[simp] theorem Decoder.acceptHeader_dataRemaining (d : Decoder) (dir : Direction) (size : BitVec Config.sizeBits) : (d.acceptHeader dir size).dataRemaining = BitVec.ofNat Config.dataCountBits (clampN size.toNat) := rfl
@[simp] theorem Decoder.acceptHeader_addressBuffer (d : Decoder) (dir : Direction) (size : BitVec Config.sizeBits) : (d.acceptHeader dir size).addressBuffer = d.addressBuffer := rfl
@[simp] theorem Decoder.acceptHeader_dataBuffer (d : Decoder) (dir : Direction) (size : BitVec Config.sizeBits) : (d.acceptHeader dir size).dataBuffer = d.dataBuffer := rfl

@[simp] theorem Decoder.acceptAddress_state (d : Decoder) (b : Byte) : (d.acceptAddress b).state = d.state := rfl
@[simp] theorem Decoder.acceptAddress_header (d : Decoder) (b : Byte) : (d.acceptAddress b).header = d.header := rfl
@[simp] theorem Decoder.acceptAddress_addressRemaining (d : Decoder) (b : Byte) : (d.acceptAddress b).addressRemaining = BitVec.ofNat Config.addrCountBits (d.addressRemaining.toNat - 1) := rfl
@[simp] theorem Decoder.acceptAddress_dataRemaining (d : Decoder) (b : Byte) : (d.acceptAddress b).dataRemaining = d.dataRemaining := rfl
@[simp] theorem Decoder.acceptAddress_addressBuffer (d : Decoder) (b : Byte) : (d.acceptAddress b).addressBuffer = storeLane d.addressRemaining.toNat b d.addressBuffer := rfl
@[simp] theorem Decoder.acceptAddress_dataBuffer (d : Decoder) (b : Byte) : (d.acceptAddress b).dataBuffer = d.dataBuffer := rfl

@[simp] theorem Decoder.acceptData_state (d : Decoder) (b : Byte) : (d.acceptData b).state = d.state := rfl
@[simp] theorem Decoder.acceptData_header (d : Decoder) (b : Byte) : (d.acceptData b).header = d.header := rfl
@[simp] theorem Decoder.acceptData_addressRemaining (d : Decoder) (b : Byte) : (d.acceptData b).addressRemaining = d.addressRemaining := rfl
@[simp] theorem Decoder.acceptData_dataRemaining (d : Decoder) (b : Byte) : (d.acceptData b).dataRemaining = BitVec.ofNat Config.dataCountBits (d.dataRemaining.toNat - 1) := rfl
@[simp] theorem Decoder.acceptData_addressBuffer (d : Decoder) (b : Byte) : (d.acceptData b).addressBuffer = d.addressBuffer := rfl
@[simp] theorem Decoder.acceptData_dataBuffer (d : Decoder) (b : Byte) : (d.acceptData b).dataBuffer = storeByte (dataIndex d.N d.dataRemaining.toNat) b d.dataBuffer := rfl

@[simp] theorem Decoder.finish_state (d : Decoder) : (d.finish).state = .done := rfl
@[simp] theorem Decoder.finish_header (d : Decoder) : (d.finish).header = d.header := rfl
@[simp] theorem Decoder.finish_addressRemaining (d : Decoder) : (d.finish).addressRemaining = d.addressRemaining := rfl
@[simp] theorem Decoder.finish_dataRemaining (d : Decoder) : (d.finish).dataRemaining = 0 := rfl
@[simp] theorem Decoder.finish_addressBuffer (d : Decoder) : (d.finish).addressBuffer = d.addressBuffer := rfl
@[simp] theorem Decoder.finish_dataBuffer (d : Decoder) : (d.finish).dataBuffer = d.dataBuffer := rfl

@[simp] theorem Decoder.countDown_state (d : Decoder) : (d.countDown).state = (if d.dataRemaining.toNat - 1 = 0 then .done else d.state) := rfl
@[simp] theorem Decoder.countDown_header (d : Decoder) : (d.countDown).header = d.header := rfl
@[simp] theorem Decoder.countDown_addressRemaining (d : Decoder) : (d.countDown).addressRemaining = d.addressRemaining := rfl
@[simp] theorem Decoder.countDown_dataRemaining (d : Decoder) : (d.countDown).dataRemaining = BitVec.ofNat Config.dataCountBits (d.dataRemaining.toNat - 1) := rfl
@[simp] theorem Decoder.countDown_addressBuffer (d : Decoder) : (d.countDown).addressBuffer = d.addressBuffer := rfl
@[simp] theorem Decoder.countDown_dataBuffer (d : Decoder) : (d.countDown).dataBuffer = d.dataBuffer := rfl

@[simp] theorem Decoder.position_state (d : Decoder) : d.position.state = d.state := rfl
@[simp] theorem Decoder.position_header (d : Decoder) : d.position.header = d.header := rfl
@[simp] theorem Decoder.position_addressRemaining (d : Decoder) : d.position.addressRemaining = d.addressRemaining := rfl
@[simp] theorem Decoder.position_dataRemaining (d : Decoder) : d.position.dataRemaining = d.dataRemaining := rfl
@[simp] theorem Decoder.position_N (d : Decoder) : d.position.N = d.N := rfl

end Sys2Proof.Machine
end

