-- ==== Sys2Proof/Laws/Buffers.lean ====
section
/-! SUPPORT. What the stores into the address and data buffers do, bit by bit and byte by byte. -/

namespace Sys2Proof.Machine

/-- The mask of lane k, bit by bit. -/
theorem getLsbD_mask (k j : Nat) (hj : j < 24) : ((0xFF : Address) <<< (8 * (k - 1))).getLsbD j =
    decide (8 * (k - 1) ≤ j ∧ j < 8 * (k - 1) + 8) := by
  have h255 : ∀ m, m < 24 → (0xFF : Address).getLsbD m = decide (m < 8) := by decide
  rw [BitVec.getLsbD_shiftLeft, h255 _ (by omega)]
  rw [Bool.eq_iff_iff]
  simp [hj]
  omega

/-- R123: inside the lane the byte's bit, outside it the old one. -/
theorem getLsbD_storeLane (k : Nat) (b : Byte) (a : Address) (hk : 1 ≤ k ∧ k ≤ 3) (j : Nat) (hj : j < 24) :
    (storeLane k b a).getLsbD j =
      if 8 * k - 8 ≤ j ∧ j < 8 * k then b.getLsbD (j - (8 * k - 8)) else a.getLsbD j := by
  have e : 8 * (k - 1) = 8 * k - 8 := by omega
  have e' : 8 * k - 8 + 8 = 8 * k := by omega
  have hm := getLsbD_mask k j hj
  have hw : j < Config.addrWidth := hj
  have hw' : j - (8 * k - 8) < Config.addrWidth := Nat.lt_of_le_of_lt (Nat.sub_le _ _) hw
  simp only [storeLane, hk, Config.addrBytes_value, and_self, if_true, BitVec.getLsbD_or, BitVec.getLsbD_and,
    BitVec.getLsbD_not, hm]
  simp only [BitVec.getLsbD_shiftLeft, BitVec.getLsbD_setWidth, e, e', hw, hw', decide_true, Bool.true_and]
  by_cases h1 : j < 8 * k - 8
  · simp [h1, show ¬ (8 * k - 8 ≤ j) by omega]
  · by_cases h2 : j < 8 * k
    · simp [h1, h2, show 8 * k - 8 ≤ j by omega]
    · simp [h1, h2, BitVec.getLsbD_of_ge b _ (show 8 ≤ j - (8 * k - 8) by omega)]

/-- R95: the three address bytes, as the pseudo-operations write them. -/
theorem addressBytes_eq (a : Address) : addressBytes a = [a.extractLsb' 16 8, a.extractLsb' 8 8, a.extractLsb' 0 8] := rfl

/-- R142, R32: the byte at its index, every other byte as before. -/
theorem getElem_storeByte (i : Nat) (b : Byte) (buf : Buffer) (j : Nat) (hj : j < 4) :
    (storeByte i b buf)[j] = if j = i then b else buf[j] := by
  unfold storeByte
  simp only [Config.maxDataBytes_value]
  split
  · simp [Vector.getElem_set, eq_comm]
  · rw [if_neg (by omega)]

/-- R160: the first `n` bytes from the answer, the rest as before. -/
theorem getElem_fillBytes (n : Nat) (data buf : Buffer) (j : Nat) (hj : j < 4) :
    (fillBytes n data buf)[j] = if j < n then data[j] else buf[j] := by
  simp [fillBytes]

theorem loadByte_of_lt (i : Nat) (other : Byte) (buf : Buffer) (h : i < 4) : loadByte i other buf = buf[i] := by
  simp [loadByte, h]

theorem length_writeVector (n : Nat) (b : Byte) (buf : Buffer) (hn : 1 ≤ n) (h4 : n ≤ 4) :
    (writeVector n b buf).length = n := by
  simp [writeVector]; omega

/-- R141: the vector written is the first `n` bytes of the buffer with the last byte stored. -/
theorem writeVector_eq (n : Nat) (b : Byte) (buf : Buffer) (hn : 1 ≤ n) (h4 : n ≤ 4) :
    writeVector n b buf = (storeByte (n - 1) b buf).toList.take n := by
  apply List.ext_getElem
  · simp [length_writeVector n b buf hn h4]; omega
  · intro j h1 _
    rw [length_writeVector n b buf hn h4] at h1
    simp only [List.getElem_take, Vector.getElem_toList, getElem_storeByte _ _ _ _ (show j < 4 by omega)]
    by_cases hj : j = n - 1
    · subst hj
      rw [if_pos rfl]
      simp [writeVector]
    · rw [if_neg hj]
      have : j < n - 1 ∧ j < 4 := by omega
      simp [writeVector, this]

end Sys2Proof.Machine
end

