-- ==== Sys2Proof/Laws/Decode.lean ====
section
/-! SUPPORT. The header's fields as numbers, and the codes of the state field. -/

namespace Sys2Proof

theorem headerSize_toNat (h : Byte) : (headerSize h).toNat = h.toNat / 2 % 64 := by
  simp [headerSize, Layout.sizeLow, BitVec.extractLsb'_toNat, Nat.shiftRight_eq_div_pow]

theorem headerDirection_read (h : Byte) : headerDirection h = .read ↔ 128 ≤ h.toNat := by
  simp [headerDirection, Layout.directionBit, BitVec.getLsbD, Nat.testBit, Nat.shiftRight_eq_div_pow]
  omega

theorem headerReserved_toNat (h : Byte) : (headerReserved h).toNat = h.toNat % 2 := by
  rcases Nat.mod_two_eq_zero_or_one h.toNat with e | e <;>
    simp [headerReserved, Layout.reservedBit, BitVec.getLsbD, Nat.testBit, e]

theorem headerByte_toNat (d : Direction) (n : Nat) (r : Bool) (hn : n < 64) :
    (headerByte d n r).toNat = d.bit.toNat * 128 + n * 2 + r.toNat := by
  interval_cases n <;> cases d <;> cases r <;> rfl

theorem headerDirection_headerByte (d : Direction) (n : Nat) (r : Bool) (hn : n < 64) :
    headerDirection (headerByte d n r) = d := by
  interval_cases n <;> cases d <;> cases r <;> rfl

theorem headerSize_headerByte (d : Direction) (n : Nat) (r : Bool) (hn : n < 64) :
    headerSize (headerByte d n r) = BitVec.ofNat 6 n := by
  interval_cases n <;> cases d <;> cases r <;> rfl

theorem headerReserved_headerByte (d : Direction) (n : Nat) (r : Bool) (hn : n < 64) :
    headerReserved (headerByte d n r) = r := by
  interval_cases n <;> cases d <;> cases r <;> rfl

/-- A header byte is the encoding of its own fields. -/
theorem headerByte_fields (h : Byte) : headerByte (headerDirection h) (headerSize h).toNat (headerReserved h) = h := by
  apply BitVec.eq_of_toNat_eq
  have hd := headerDirection_read h
  rw [headerByte_toNat _ _ _ (headerSize h).isLt, headerReserved_toNat, headerSize_toNat]
  have := h.isLt
  cases e : headerDirection h <;> simp [e, Direction.bit] at hd ⊢ <;> omega

theorem clampN_le (n : Nat) : clampN n ≤ 4 := Nat.min_le_right _ _

theorem Phase.ofCode_code (p : Phase) : Phase.ofCode p.code = some p := by cases p <;> rfl

theorem Phase.code_ofCode (c : BitVec 3) (p : Phase) (h : Phase.ofCode c = some p) : p.code = c := by
  revert c; cases p <;> decide

end Sys2Proof
end

