-- ==== Sys2Proof/Laws/Ops.lean ====
section
/-! SUPPORT. For each shared operation, everything it can do. -/

namespace Sys2Proof.Machine

/-- The guard of R92: a next state exactly where the operation is selected, and then the call completed. -/
theorem State.transfer_eq_next (s t : State) (i : Instr) (b : Byte) (e : Effect) :
    s.transfer i b e = .next t ↔ s.created = true ∧ s.selects i = true ∧ t = s.complete b e := by
  unfold State.transfer
  by_cases hc : s.created = true <;> by_cases hs : s.selects i = true <;> simp [hc, hs]
  exact eq_comm

/-- Selection in its three parts. -/
theorem State.selects_iff (s : State) (i : Instr) :
    s.selects i = true ↔ s.decoder.legal = true ∧ i.wellFormed = true ∧ i.selectedAt s.decoder.position = true := by
  simp [State.selects, and_assoc]

theorem State.transfer_ne_fault (s : State) (i : Instr) (b : Byte) (e : Effect) (f : Fault) : s.transfer i b e ≠ .fault f := by
  cases f

@[simp] theorem Decoder.N_le (d : Decoder) : d.N ≤ 4 := clampN_le _

theorem State.complete_eq_afterCall (s : State) (b : Byte) (e : Effect) :
    s.complete b e =
      s.afterCall e.decoder { incoming := b, reply := e.reply, status := e.status, request := e.request } := rfl

/-- A completed call adds its exchange at the end of the period's exchanges. -/
@[simp] theorem State.exchanges_complete (s : State) (b : Byte) (e : Effect) :
    (s.complete b e).exchanges =
      s.exchanges ++ [{ incoming := b, reply := e.reply, status := e.status, request := e.request }] := by
  simp [State.exchanges, sinceBoundary]

@[simp] theorem State.exchanges_deselected (s : State) : (s.boundary .deselected).exchanges = [] := rfl
@[simp] theorem State.exchanges_created (s : State) : (s.boundary .created).exchanges = [] := rfl
@[simp] theorem State.exchanges_take (s : State) (rest : List Input) (r : Option Response) :
    (s.take rest r).exchanges = s.exchanges := rfl

@[simp] theorem State.wire_complete (s : State) (b : Byte) (e : Effect) : (s.complete b e).wire = s.wire ++ [b] := by
  simp [State.wire]

@[simp] theorem State.accesses_complete (s : State) (b : Byte) (e : Effect) :
    (s.complete b e).accesses = s.accesses ++ e.request.toList := by
  cases h : e.request <;> simp [State.accesses, List.filterMap_append, h]

/-- R38, state by state. -/
theorem Decoder.legal_idle (d : Decoder) (h : d.state = .idle) : d.legal = true ↔ d = Decoder.reset := by
  simp [Decoder.legal, h]

theorem Decoder.legal_address (d : Decoder) (h : d.state = .address) :
    d.legal = true ↔
      1 ≤ d.addressRemaining.toNat ∧ d.addressRemaining.toNat ≤ Config.addrBytes ∧ d.dataRemaining.toNat = d.N := by
  simp [Decoder.legal, h]

theorem Decoder.legal_data (d : Decoder) (h : d.state = .data) :
    d.legal = true ↔ d.addressRemaining = 0 ∧
      ((d.N = 0 ∧ d.dataRemaining = 0) ∨ (1 ≤ d.dataRemaining.toNat ∧ d.dataRemaining.toNat ≤ d.N)) := by
  simp [Decoder.legal, h]

theorem Decoder.legal_done (d : Decoder) (h : d.state = .done) :
    d.legal = true ↔ d.addressRemaining = 0 ∧ d.dataRemaining = 0 := by
  simp [Decoder.legal, h]

theorem Decoder.legal_confused (d : Decoder) (h : d.state = .confused) :
    d.legal = true ↔ d.addressRemaining = 0 ∧ d.dataRemaining = 0 ∧ d.header.size = 0 := by
  simp [Decoder.legal, h]

theorem Decoder.legal_reset : Decoder.reset.legal = true := by decide

/-- Everything a meaning that gives a next state can have done: a boundary, or one completed call of a selected operation. -/
theorem exec_next_cases (i : Instr) (s t : State) (h : exec i s = .next t) :
    (i = .reset ∧ s.created = true ∧ t = s.boundary .deselected) ∨ (i = .init ∧ t = s.boundary .created) ∨
      ∃ b e, encode i = .transfer b ∧ s.created = true ∧ s.selects i = true ∧ t = s.complete b e := by
  cases i with
  | reset =>
    simp only [exec, execReset] at h
    split at h <;> simp_all
  | init => exact .inr (.inl ⟨rfl, by simpa [exec, execInit] using h.symm⟩)
  | _ =>
    obtain ⟨hc, hs, ht⟩ := (State.transfer_eq_next ..).mp h
    exact .inr (.inr ⟨_, _, rfl, hc, hs, ht⟩)

/-- Everything fetching an event can come to. -/
theorem fetch_cases (s : State) :
    (s.inputs = [] ∧ fetch s = .quiet) ∨
    (∃ rest, s.inputs = .overlapping :: rest ∧ fetch s = .refuse .overlapping) ∨
    (∃ rest, s.inputs = .deselect :: rest ∧ fetch s = .run .reset (s.take rest none)) ∨
    (∃ rest, s.inputs = .create :: rest ∧ fetch s = .run .init (s.take rest none)) ∨
    (∃ b r rest, s.inputs = .transfer b r :: rest ∧
      ((s.created = false ∧ fetch s = .refuse .notCreated) ∨
        (s.created = true ∧ (s.decoder.legal = false ∨ decode s.decoder.position (.transfer b) = none) ∧
          fetch s = .refuse .noOperation) ∨
        (∃ i, s.created = true ∧ s.decoder.legal = true ∧ decode s.decoder.position (.transfer b) = some i ∧
          fetch s = .run i (s.take rest r)))) := by
  rcases h : s.inputs with _ | ⟨x, rest⟩
  · simp [fetch, h]
  · cases x with
    | transfer b r =>
      simp only [fetch, h, fetchTransfer]
      by_cases hc : s.created = true <;> by_cases hl : s.decoder.legal = true <;>
        cases hd : decode s.decoder.position (.transfer b) <;> simp_all
    | _ => simp [fetch, h]

/-- Everything a step that gives a next state can have done. -/
theorem step_next_cases (s t : State) (h : step s = .next t) :
    (s.inputs = [] ∧ t = s) ∨
    (∃ rest, s.inputs = .deselect :: rest ∧ s.created = true ∧ t = (s.take rest none).boundary .deselected) ∨
    (∃ rest, s.inputs = .create :: rest ∧ t = (s.take rest none).boundary .created) ∨
    (∃ b r rest i, s.inputs = .transfer b r :: rest ∧ s.created = true ∧ s.decoder.legal = true ∧
      decode s.decoder.position (.transfer b) = some i ∧ exec i (s.take rest r) = .next t) := by
  unfold step at h
  rcases fetch_cases s with ⟨hi, hf⟩ | ⟨rest, hi, hf⟩ | ⟨rest, hi, hf⟩ | ⟨rest, hi, hf⟩ | ⟨b, r, rest, hi, h'⟩
  · simp [hf] at h; exact .inl ⟨hi, h.symm⟩
  · simp [hf] at h
  · simp only [hf] at h
    obtain ⟨-, hc, ht⟩ | ⟨hx, -⟩ | ⟨_, _, hx, -⟩ := exec_next_cases _ _ _ h
    · exact .inr (.inl ⟨rest, hi, hc, ht⟩)
    · cases hx
    · cases hx
  · simp only [hf] at h
    obtain ⟨hx, -⟩ | ⟨-, ht⟩ | ⟨_, _, hx, -⟩ := exec_next_cases _ _ _ h
    · cases hx
    · exact .inr (.inr (.inl ⟨rest, hi, ht⟩))
    · cases hx
  · rcases h' with ⟨-, hf⟩ | ⟨-, -, hf⟩ | ⟨i, hc, hl, hd, hf⟩
    · simp [hf] at h
    · simp [hf] at h
    · simp only [hf] at h
      exact .inr (.inr (.inr ⟨b, r, rest, i, hi, hc, hl, hd, h⟩))

end Sys2Proof.Machine
end

