-- ==== Sys2Proof/Laws/PerInstr.lean ====
section
/-! SUPPORT. Per operation: its event fits the byte match and mask of its opcode-table row (R92). -/

namespace Sys2Proof.Laws.Pattern

/-- The event a well-formed operation stands for fits the row's match and mask. -/
def Statement (i : Instr) : Prop := i.wellFormed = true → (encode i).fits i.byteMatch = true

theorem hdrRd (size : Nat) (rsv : Bool) : Statement (.hdrRd size rsv) := by
  intro h
  have h : size < 64 := of_decide_eq_true h
  interval_cases size <;> cases rsv <;> rfl

theorem hdrWr (size : Nat) (rsv : Bool) : Statement (.hdrWr size rsv) := by
  intro h
  have h : size < 64 := of_decide_eq_true h
  interval_cases size <;> cases rsv <;> rfl

/-- A row with mask 0x00 is fit by every byte. -/
theorem fits_any (b : Byte) : (Event.transfer b).fits (some (0x00, 0x00)) = true := by simp [Event.fits]

theorem addr (b : Byte) : Statement (.addr b) := fun _ => fits_any b
theorem addrLast (b : Byte) : Statement (.addrLast b) := fun _ => fits_any b
theorem wdata (b : Byte) : Statement (.wdata b) := fun _ => fits_any b
theorem wdataLast (b : Byte) : Statement (.wdataLast b) := fun _ => fits_any b
theorem rdataFirst (b : Byte) : Statement (.rdataFirst b) := fun _ => fits_any b
theorem rdataNext (b : Byte) : Statement (.rdataNext b) := fun _ => fits_any b
theorem zdata (b : Byte) : Statement (.zdata b) := fun _ => fits_any b
theorem drain (b : Byte) : Statement (.drain b) := fun _ => fits_any b
theorem conf (b : Byte) : Statement (.conf b) := fun _ => fits_any b
theorem reset : Statement .reset := fun _ => rfl
theorem init : Statement .init := fun _ => rfl

end Sys2Proof.Laws.Pattern
end

