-- ==== Sys2Proof/Tests/Slice0.lean ====
section
/-! SUPPORT. Expected results are those of 95_test_vectors.md or of a rule's own example, never the model's. First the well-formedness
smoke and the decoder, then one or two single steps per operation, then a witness for the hypotheses of every statement. -/

namespace Sys2Proof.Tests

open Sys2Proof.Machine

/-! ## Helpers -/

/-- A record as 95_test_vectors.md writes it: `[state hdr=(dir,size) ar dr ab db]`. -/
def record (st : Phase) (dir : Direction) (size : BitVec 6) (ar : BitVec 2) (dr : BitVec 3) (ab : Address) (db : Buffer) : Decoder :=
  ⟨st, ⟨dir, size⟩, ar, dr, ab, db⟩

/-- A created machine with that record. -/
def at' (d : Decoder) (rsp : Option Response := none) (ins : List Input := []) (tr : List TraceEntry := []) : State :=
  { State.reset with decoder := d, rsp := rsp, inputs := ins, trace := tr }

/-- The exchange a byte with a quiet reply leaves in a trace. -/
def quiet (b : Byte) : TraceEntry := .exchange { incoming := b, reply := 0x00, status := .ok, request := none }

/-- The collaborator's answers. -/
def answer (db : Buffer) : Option Response := some { fail := false, data := db }
def failing : Option Response := some { fail := true, data := #v[0, 0, 0, 0] }

/-- Whether an outcome is a next state. -/
def runs (o : Host.Outcome State Fault Refusal) : Bool :=
  match o with
  | .next _ => true
  | .fault _ => false
  | .refused _ => false

theorem runs_next {o : Host.Outcome State Fault Refusal} (h : runs o = true) : ∃ t, o = .next t := by
  cases o with
  | next t => exact ⟨t, rfl⟩
  | fault f => cases f
  | refused r => simp [runs] at h

/-- The record an operation leaves. -/
def after (i : Instr) (s : State) : Option Decoder :=
  match exec i s with
  | .next t => some t.decoder
  | .fault _ => none
  | .refused _ => none

/-- The newest exchange after an operation. -/
def shown (i : Instr) (s : State) : Option Exchange :=
  match exec i s with
  | .next t => t.exchanges.getLast?
  | .fault _ => none
  | .refused _ => none

/-- What it shows besides the reply. -/
def sees (i : Instr) (s : State) : Option (Byte × Status × Option Access) :=
  (shown i s).map fun x => (x.incoming, x.status, x.request)

/-- The reply of an operation. -/
def reply (i : Instr) (s : State) : Option Byte := (shown i s).map Exchange.reply

/-- A state, and an exchange in front of the trace, for statements about what an operation shows. -/
theorem shown_next {i : Instr} {s : State} {b : Byte} {st : Status} {rq : Option Access} (h : sees i s = some (b, st, rq))
    (hb : ∃ c, encode i = .transfer c) :
    ∃ t x, exec i s = .next t ∧ t.trace = .exchange x :: s.trace ∧ x.status = st ∧ x.request = rq := by
  obtain ⟨c, hb⟩ := hb
  unfold sees shown at h
  split at h
  · rename_i t ht
    obtain ⟨rfl, -⟩ | ⟨rfl, -⟩ | ⟨b', e, -, -, -, rfl⟩ := exec_next_cases _ _ _ ht
    · cases hb
    · cases hb
    · refine ⟨_, _, ht, rfl, ?_⟩
      simp at h
      exact ⟨h.2.1, h.2.2⟩
  · simp at h
  · simp at h

/-! ## Well-formedness (R82: sizes 0..63) -/

theorem test_wf_hdrRd_64 : (Instr.hdrRd 64 false).wellFormed = false := by decide
theorem test_wf_hdrWr_64 : (Instr.hdrWr 64 true).wellFormed = false := by decide
theorem test_wf_sizes : (Instr.hdrRd 63 true).wellFormed = true ∧ (Instr.hdrWr 0 false).wellFormed = true := by decide

/-! ## Decoding, one word per operation, written out from R80 (dir, size, rsv) or with the state R92 gives the row -/

theorem test_decode_hdrRd : decodeTableWord 8 0b1_000001_0 = some (.hdrRd 1 false) := by decide
theorem test_decode_hdrWr : decodeTableWord 8 0b0_000011_1 = some (.hdrWr 3 true) := by decide
theorem test_decode_sizes : decodeTableWord 8 0b1_111111_1 = some (.hdrRd 63 true) ∧
    decodeTableWord 8 0b0_000000_0 = some (.hdrWr 0 false) := by decide
theorem test_decode_addr : decode ⟨.address, ⟨.read, 4⟩, 3, 4⟩ (.transfer 0b00010010) = some (.addr 0x12) ∧
    decode ⟨.address, ⟨.read, 4⟩, 2, 4⟩ (.transfer 0x34) = some (.addr 0x34) := by decide
theorem test_decode_addrLast : decode ⟨.address, ⟨.read, 4⟩, 1, 4⟩ (.transfer 0x56) = some (.addrLast 0x56) := by decide
theorem test_decode_wdata : decode ⟨.data, ⟨.write, 3⟩, 0, 2⟩ (.transfer 0x22) = some (.wdata 0x22) := by decide
theorem test_decode_wdataLast : decode ⟨.data, ⟨.write, 3⟩, 0, 1⟩ (.transfer 0x33) = some (.wdataLast 0x33) := by decide
theorem test_decode_rdataFirst : decode ⟨.data, ⟨.read, 40⟩, 0, 4⟩ (.transfer 0xFF) = some (.rdataFirst 0xFF) := by decide
theorem test_decode_rdataNext : decode ⟨.data, ⟨.read, 40⟩, 0, 3⟩ (.transfer 0xFF) = some (.rdataNext 0xFF) := by decide
theorem test_decode_zdata : decode ⟨.data, ⟨.write, 0⟩, 0, 0⟩ (.transfer 0x33) = some (.zdata 0x33) := by decide
theorem test_decode_drain : decode ⟨.done, ⟨.write, 1⟩, 0, 0⟩ (.transfer 0x82) = some (.drain 0x82) := by decide
theorem test_decode_conf : decode ⟨.confused, ⟨.read, 0⟩, 0, 0⟩ (.transfer 0x82) = some (.conf 0x82) := by decide
theorem test_decode_reset : decodeTableWord 0 0 = some .reset := by decide
theorem test_decode_init : decode Position.start .create = some .init := by decide
/-- R92: no row for an `Address` state whose count is 0. -/
theorem test_decode_none : decode ⟨.address, ⟨.read, 4⟩, 0, 4⟩ (.transfer 0x12) = none := by decide
/-- R85's examples of over-declared sizes. -/
theorem test_encode : encode (.hdrWr 40 false) = .transfer 0x50 ∧ encode (.hdrRd 40 false) = .transfer 0xD0 ∧
    encode (.hdrWr 63 true) = .transfer 0x7F := by decide

/-! ## One step per operation -/

/-- V-H12, V-H14. -/
theorem test_hdrRd : after (.hdrRd 2 false) State.reset = some (record .address .read 2 3 2 0 #v[0, 0, 0, 0]) ∧
    after (.hdrRd 63 true) State.reset = some (record .address .read 63 3 4 0 #v[0, 0, 0, 0]) := by decide
/-- V-H7, V-H2. -/
theorem test_hdrWr : after (.hdrWr 5 false) State.reset = some (record .address .write 5 3 4 0 #v[0, 0, 0, 0]) ∧
    after (.hdrWr 0 true) State.reset = some (record .address .write 0 3 0 0 #v[0, 0, 0, 0]) := by decide
theorem test_hdr_shows : sees (.hdrRd 1 false) State.reset = some (0x82, .ok, none) := by decide

/-- V-A2, the first two bytes. -/
theorem test_addr_first : after (.addr 0x12) (at' (record .address .read 4 3 4 0 #v[0, 0, 0, 0])) =
    some (record .address .read 4 2 4 0x120000 #v[0, 0, 0, 0]) := by decide
theorem test_addr_second : after (.addr 0x34) (at' (record .address .read 4 2 4 0x120000 #v[0, 0, 0, 0])) =
    some (record .address .read 4 1 4 0x123400 #v[0, 0, 0, 0]) := by decide
/-- V-A2, the third byte; no access even for a read. -/
theorem test_addrLast : after (.addrLast 0x56) (at' (record .address .read 4 1 4 0x123400 #v[0, 0, 0, 0])) =
    some (record .data .read 4 0 4 0x123456 #v[0, 0, 0, 0]) := by decide
theorem test_addrLast_shows : sees (.addrLast 0x56) (at' (record .address .read 4 1 4 0x123400 #v[0, 0, 0, 0])) =
    some (0x56, .ok, none) := by decide

/-- V-W5: the second data byte of four. -/
theorem test_wdata : after (.wdata 0xCD) (at' (record .data .write 4 0 3 0x001000 #v[0xAB, 0, 0, 0])) =
    some (record .data .write 4 0 2 0x001000 #v[0xAB, 0xCD, 0, 0]) := by decide
/-- V-W2, the last byte; and V-W3, the failure. -/
theorem test_wdataLast : after (.wdataLast 0x33) (at' (record .data .write 3 0 1 0x010203 #v[0x11, 0x22, 0, 0]) (answer #v[0, 0, 0, 0])) =
    some (record .done .write 3 0 0 0x010203 #v[0x11, 0x22, 0x33, 0]) ∧
    sees (.wdataLast 0x33) (at' (record .data .write 3 0 1 0x010203 #v[0x11, 0x22, 0, 0]) (answer #v[0, 0, 0, 0])) =
      some (0x33, .ok, some (.write 0x010203 3 [0x11, 0x22, 0x33])) := by decide
theorem test_wdataLast_fails : after (.wdataLast 0x20) (at' (record .data .write 2 0 1 0xFFFFFF #v[0x10, 0, 0, 0]) failing) =
    some (record .done .write 2 0 0 0xFFFFFF #v[0x10, 0x20, 0, 0]) ∧
    sees (.wdataLast 0x20) (at' (record .data .write 2 0 1 0xFFFFFF #v[0x10, 0, 0, 0]) failing) =
      some (0x20, .collabFault .write 0xFFFFFF 2, some (.write 0xFFFFFF 2 [0x10, 0x20])) := by decide

/-- V-R2, the first data byte. -/
theorem test_rdataFirst : after (.rdataFirst 0x00) (at' (record .data .read 4 0 4 0x000018 #v[0, 0, 0, 0]) (answer #v[0xDE, 0xAD, 0xBE, 0xEF])) =
    some (record .data .read 4 0 3 0x000018 #v[0xDE, 0xAD, 0xBE, 0xEF]) ∧
    shown (.rdataFirst 0x00) (at' (record .data .read 4 0 4 0x000018 #v[0, 0, 0, 0]) (answer #v[0xDE, 0xAD, 0xBE, 0xEF])) =
      some { incoming := 0x00, reply := 0xDE, status := .ok, request := some (.read 0x000018 4) } := by decide
/-- V-R3: the buffer keeps its value. -/
theorem test_rdataFirst_fails : after (.rdataFirst 0x00) (at' (record .data .read 4 0 4 0xABCDEF #v[0, 0, 0, 0]) failing) =
    some (record .done .read 4 0 0 0xABCDEF #v[0, 0, 0, 0]) ∧
    sees (.rdataFirst 0x00) (at' (record .data .read 4 0 4 0xABCDEF #v[0, 0, 0, 0]) failing) =
      some (0x00, .collabFault .read 0xABCDEF 4, some (.read 0xABCDEF 4)) := by decide
/-- V-R2, the second and the last byte. -/
theorem test_rdataNext : reply (.rdataNext 0xFF) (at' (record .data .read 4 0 3 0x000018 #v[0xDE, 0xAD, 0xBE, 0xEF])) = some 0xAD ∧
    after (.rdataNext 0xFF) (at' (record .data .read 4 0 3 0x000018 #v[0xDE, 0xAD, 0xBE, 0xEF])) =
      some (record .data .read 4 0 2 0x000018 #v[0xDE, 0xAD, 0xBE, 0xEF]) := by decide
theorem test_rdataNext_last : reply (.rdataNext 0xFF) (at' (record .data .read 4 0 1 0x000018 #v[0xDE, 0xAD, 0xBE, 0xEF])) = some 0xEF ∧
    after (.rdataNext 0xFF) (at' (record .data .read 4 0 1 0x000018 #v[0xDE, 0xAD, 0xBE, 0xEF])) =
      some (record .done .read 4 0 0 0x000018 #v[0xDE, 0xAD, 0xBE, 0xEF]) := by decide

/-- V-Z1: the byte 0x33, then the byte 0x82. -/
theorem test_zdata : after (.zdata 0x33) (at' (record .data .read 0 0 0 0 #v[0, 0, 0, 0])) =
    some (record .confused .read 0 0 0 0 #v[0, 0, 0, 0]) ∧
    sees (.zdata 0x33) (at' (record .data .read 0 0 0 0 #v[0, 0, 0, 0])) = some (0x33, .violation .zeroSizeData, none) := by decide
theorem test_conf : after (.conf 0x82) (at' (record .confused .read 0 0 0 0 #v[0, 0, 0, 0])) =
    some (record .confused .read 0 0 0 0 #v[0, 0, 0, 0]) ∧
    sees (.conf 0x82) (at' (record .confused .read 0 0 0 0 #v[0, 0, 0, 0])) = some (0x82, .ok, none) := by decide
/-- V-D1. -/
theorem test_drain : after (.drain 0x82) (at' (record .done .write 1 0 0 0x123456 #v[0x5A, 0, 0, 0])) =
    some (record .done .write 1 0 0 0x123456 #v[0x5A, 0, 0, 0]) ∧
    sees (.drain 0x82) (at' (record .done .write 1 0 0 0x123456 #v[0x5A, 0, 0, 0])) = some (0x82, .ok, none) := by decide
/-- V-X3, the deselect. -/
theorem test_reset : after .reset (at' (record .address .write 4 1 4 0x001000 #v[0, 0, 0, 0])) =
    some (record .idle .write 0 3 0 0 #v[0, 0, 0, 0]) ∧ shown .reset (at' (record .address .write 4 1 4 0x001000 #v[0, 0, 0, 0])) = none := by
  decide
/-- R260. -/
theorem test_init : after .init { State.reset with created := false } = some (record .idle .write 0 3 0 0 #v[0, 0, 0, 0]) := by decide

/-- Each of these as a whole step: the event is taken, decoded and run (V-R1, the fifth byte). -/
theorem test_step : (match step (at' (record .data .read 1 0 1 0x002000 #v[0, 0, 0, 0]) none [.transfer 0x00 (answer #v[0x5A, 0, 0, 0])]) with
    | .next t => decide (t.decoder = record .done .read 1 0 0 0x002000 #v[0x5A, 0, 0, 0] ∧ t.inputs = [] ∧
        t.exchanges = [{ incoming := 0x00, reply := 0x5A, status := .ok, request := some (.read 0x002000 1) }])
    | .fault _ => false
    | .refused _ => false) = true := by decide
/-- A snapshot with the code 5 (R22), and one outside R38. -/
theorem test_snapshot : (Snapshot.restore ⟨5, ⟨.read, 1⟩, 0, 0, 0, #v[0, 0, 0, 0]⟩) = .refused .badSnapshot ∧
    (record .done .read 1 0 1 0 #v[0, 0, 0, 0]).snapshot.restore = .refused .badSnapshot := ⟨rfl, rfl⟩
/-- R142: 0x112233. -/
theorem test_beValue : beValue [0x11, 0x22, 0x33] = 0x112233 := by decide
/-- The encoding of the first half of Program 1: `04 00 F0 04 BE EF |`. -/
theorem test_writeProgram : writeProgram 2 0x00F004 [0xBE, 0xEF] (List.replicate 6 none) =
    [.transfer 0x04 none, .transfer 0x00 none, .transfer 0xF0 none, .transfer 0x04 none, .transfer 0xBE none, .transfer 0xEF none, .deselect] := by
  decide
/-- R91: a 2-byte write on the request ports. -/
theorem test_ports : reqKind (some (.write 0xFFFFFF 2 [0x10, 0x20])) = 2 ∧ reqWidth (some (.write 0xFFFFFF 2 [0x10, 0x20])) = some 2 ∧
    reqWData (some (.write 0xFFFFFF 2 [0x10, 0x20])) = #v[some 0x10, some 0x20, none, none] := by decide

/-! ## Witnesses: for each statement with hypotheses, states and operands that meet them all, at the ends of their ranges -/

def inAddress (ar : BitVec 2) : State := at' (record .address .read 4 ar 4 0 #v[0, 0, 0, 0])
def inWrite (size : BitVec 6) (dr : BitVec 3) (rsp : Option Response := none) : State :=
  at' (record .data .write size 0 dr 0x001000 #v[0, 0, 0, 0]) rsp
def inRead (size : BitVec 6) (dr : BitVec 3) (rsp : Option Response := none) : State :=
  at' (record .data .read size 0 dr 0x001000 #v[0x11, 0x22, 0x33, 0x44]) rsp
def inZero (dir : Direction) : State := at' (record .data dir 0 0 0 0x001000 #v[0, 0, 0, 0])
def inDone : State := at' (record .done .write 1 0 0 0x001000 #v[0x5A, 0, 0, 0])
def inConfused : State := at' (record .confused .read 0 0 0 0 #v[0, 0, 0, 0])
/-- Outside R38: `Data` of a 4-byte read with its count past N. -/
def outside : State := at' (record .data .read 4 0 7 0 #v[0, 0, 0, 0])
def uncreated : State := { State.reset with created := false }
def good : Option Response := answer #v[0xDE, 0xAD, 0xBE, 0xEF]

theorem witness_DecodeEncodeRoundTrip :
    ((Instr.hdrRd 63 true).wellFormed = true ∧ (Instr.hdrRd 63 true).selectedAt Position.start = true) ∧
    ((Instr.addr 0x12).wellFormed = true ∧ (Instr.addr 0x12).selectedAt (inAddress 2).decoder.position = true) ∧
    ((Instr.wdata 0x12).wellFormed = true ∧ (Instr.wdata 0x12).selectedAt (inWrite 2 2).decoder.position = true) ∧
    ((Instr.rdataNext 0x12).wellFormed = true ∧ (Instr.rdataNext 0x12).selectedAt (inRead 63 3).decoder.position = true) := by decide

theorem witness_EncodeDecodeRoundTrip :
    decode Position.start (.transfer 0xFF) = some (.hdrRd 63 true) ∧
    decode (inWrite 4 1).decoder.position (.transfer 0x12) = some (.wdataLast 0x12) := by decide

theorem witness_SelectionTable :
    (inRead 4 4).decoder.legal = true ∧
    outside.created = true ∧ outside.decoder.legal = false ∧
    (at' outside.decoder none [.transfer 0x12 none]).inputs = [.transfer 0x12 none] := by decide

theorem witness_ReservedHeaderBitIgnored :
    State.reset.created = true ∧ State.reset.decoder.legal = true ∧ State.reset.decoder.state = .idle ∧
    (0x82 : Byte) >>> 1 = (0x83 : Byte) >>> 1 ∧ (0x00 : Byte) >>> 1 = (0x01 : Byte) >>> 1 := by decide

theorem witness_HeaderEncodingFunction : (63 : Nat) < 64 ∧ (0 : Nat) < 64 := by decide

theorem witness_SnapshotRestore :
    5 ≤ (⟨5, ⟨.read, 1⟩, 0, 0, 0, #v[0, 0, 0, 0]⟩ : Snapshot).state.toNat ∧
    5 ≤ (⟨7, ⟨.read, 1⟩, 0, 0, 0, #v[0, 0, 0, 0]⟩ : Snapshot).state.toNat ∧
    (inRead 4 1).decoder.legal = true ∧ outside.decoder.legal = false := by decide
theorem witness_SnapshotRestore_next : inDone.decoder.snapshot.restore = .next inDone.decoder := rfl

theorem witness_HeaderReadStartsAddressPhase :
    State.reset.created = true ∧ State.reset.decoder.legal = true ∧ State.reset.decoder.state = .idle ∧
    (0x80 : Byte).getLsbD 7 = true ∧ (0xFF : Byte).getLsbD 7 = true := by decide
theorem witness_HeaderWriteStartsAddressPhase :
    State.reset.created = true ∧ State.reset.decoder.legal = true ∧ State.reset.decoder.state = .idle ∧
    (0x00 : Byte).getLsbD 7 = false ∧ (0x7F : Byte).getLsbD 7 = false := by decide

theorem witness_AddressByteFillsItsLane :
    (inAddress 3).created = true ∧ (inAddress 3).decoder.legal = true ∧ (inAddress 3).decoder.state = .address ∧
    (inAddress 3).decoder.addressRemaining = 3 ∧ (inAddress 2).decoder.legal = true ∧ (inAddress 2).decoder.addressRemaining = 2 := by
  decide
theorem witness_LastAddressByteEntersData :
    (inAddress 1).created = true ∧ (inAddress 1).decoder.legal = true ∧ (inAddress 1).decoder.state = .address ∧
    (inAddress 1).decoder.addressRemaining = 1 := by decide

theorem witness_WriteByteStoredInWireOrder :
    ((inWrite 2 2).created = true ∧ (inWrite 2 2).decoder.legal = true ∧ (inWrite 2 2).decoder.state = .data ∧
      (inWrite 2 2).decoder.header.direction = .write ∧ 2 ≤ (inWrite 2 2).decoder.dataRemaining.toNat) ∧
    ((inWrite 63 4).created = true ∧ (inWrite 63 4).decoder.legal = true ∧ (inWrite 63 4).decoder.state = .data ∧
      (inWrite 63 4).decoder.header.direction = .write ∧ 2 ≤ (inWrite 63 4).decoder.dataRemaining.toNat) := by decide
theorem witness_LastWriteByteDispatchesWrite :
    ((inWrite 1 1 good).created = true ∧ (inWrite 1 1 good).decoder.legal = true ∧ (inWrite 1 1 good).decoder.state = .data ∧
      (inWrite 1 1 good).decoder.header.direction = .write ∧ (inWrite 1 1 good).decoder.dataRemaining = 1) ∧
    ((inWrite 63 1 failing).created = true ∧ (inWrite 63 1 failing).decoder.legal = true ∧ (inWrite 63 1 failing).decoder.state = .data ∧
      (inWrite 63 1 failing).decoder.header.direction = .write ∧ (inWrite 63 1 failing).decoder.dataRemaining = 1) := by decide

/-- N = 1 answered, N = 4 (size 63) failing: both clauses. -/
theorem witness_FirstReadByteDispatchesRead :
    ((inRead 1 1 good).created = true ∧ (inRead 1 1 good).decoder.legal = true ∧ (inRead 1 1 good).decoder.state = .data ∧
      (inRead 1 1 good).decoder.header.direction = .read ∧ 0 < min (inRead 1 1 good).decoder.header.size.toNat 4 ∧
      (inRead 1 1 good).decoder.dataRemaining.toNat = min (inRead 1 1 good).decoder.header.size.toNat 4 ∧
      (inRead 1 1 good).response.fail = false) ∧
    ((inRead 63 4 failing).created = true ∧ (inRead 63 4 failing).decoder.legal = true ∧ (inRead 63 4 failing).decoder.state = .data ∧
      (inRead 63 4 failing).decoder.header.direction = .read ∧ 0 < min (inRead 63 4 failing).decoder.header.size.toNat 4 ∧
      (inRead 63 4 failing).decoder.dataRemaining.toNat = min (inRead 63 4 failing).decoder.header.size.toNat 4 ∧
      (inRead 63 4 failing).response.fail = true) := by decide
/-- The last of two bytes, the second of four. -/
theorem witness_NextReadByteStreamsBuffer :
    ((inRead 2 1).created = true ∧ (inRead 2 1).decoder.legal = true ∧ (inRead 2 1).decoder.state = .data ∧
      (inRead 2 1).decoder.header.direction = .read ∧ 1 ≤ (inRead 2 1).decoder.dataRemaining.toNat ∧
      (inRead 2 1).decoder.dataRemaining.toNat < min (inRead 2 1).decoder.header.size.toNat 4) ∧
    ((inRead 63 3).created = true ∧ (inRead 63 3).decoder.legal = true ∧ (inRead 63 3).decoder.state = .data ∧
      (inRead 63 3).decoder.header.direction = .read ∧ 1 ≤ (inRead 63 3).decoder.dataRemaining.toNat ∧
      (inRead 63 3).decoder.dataRemaining.toNat < min (inRead 63 3).decoder.header.size.toNat 4) := by decide

theorem witness_DataAgainstZeroSizeConfuses :
    ((inZero .read).created = true ∧ (inZero .read).decoder.legal = true ∧ (inZero .read).decoder.state = .data ∧
      (inZero .read).decoder.header.size = 0) ∧
    ((inZero .write).created = true ∧ (inZero .write).decoder.legal = true ∧ (inZero .write).decoder.state = .data ∧
      (inZero .write).decoder.header.size = 0) := by decide
theorem witness_DoneDrainsEveryByte : inDone.created = true ∧ inDone.decoder.legal = true ∧ inDone.decoder.state = .done := by decide
theorem witness_ConfusedDrainsEveryByte :
    inConfused.created = true ∧ inConfused.decoder.legal = true ∧ inConfused.decoder.state = .confused := by decide
/-- A legal state and one outside R38 (log 6). -/
theorem witness_ResetRestoresResetState :
    (inRead 2 1).created = true ∧ outside.created = true ∧ outside.decoder.legal = false := by decide
theorem witness_CreationGivesResetState : inDone.created = true := by decide

theorem witness_StepRunsSelectedOperation :
    (at' (inRead 1 1).decoder none [.transfer 0x00 good, .deselect]).created = true ∧
    (at' (inRead 1 1).decoder none [.transfer 0x00 good, .deselect]).decoder.legal = true ∧
    (at' (inRead 1 1).decoder none [.transfer 0x00 good, .deselect]).inputs = [.transfer 0x00 good, .deselect] ∧
    decode (inRead 1 1).decoder.position (.transfer 0x00) = some (.rdataFirst 0x00) := by decide
theorem witness_StepRunsBoundaryEvents :
    (at' inDone.decoder none [.deselect]).inputs = [.deselect] ∧ ({ uncreated with inputs := [.create] } : State).inputs = [.create] := by
  decide
theorem witness_StepOutsideAnEvent :
    State.reset.inputs = [] ∧ (at' inDone.decoder none [.overlapping]).inputs = [.overlapping] ∧
    uncreated.created = false ∧ ({ uncreated with inputs := [.transfer 0x82 none] } : State).inputs = [.transfer 0x82 none] ∧
    ({ uncreated with inputs := [.deselect] } : State).inputs = [.deselect] := by decide
theorem witness_PlacedWordIsRun : decodeTableWord 8 0x82 = some (.hdrRd 1 false) ∧ decodeTableWord 8 0x00 = some (.hdrWr 0 false) := by
  decide

/-- The fifth byte of V-R1, with the exchanges before it: a state that meets the three invariants and takes a step. -/
def midRead : State :=
  at' (record .data .read 1 0 1 0x002000 #v[0, 0, 0, 0]) none [.transfer 0x00 good] [quiet 0x00, quiet 0x20, quiet 0x00, quiet 0x82]

theorem midRead_steps : ∃ t, step midRead = .next t := runs_next (by decide)
theorem witness_LegalStatesInvariant : midRead.Inv ∧ ∃ t, step midRead = .next t := ⟨fun _ => by decide, midRead_steps⟩
theorem witness_EveryEventHasAStep :
    midRead.created = true ∧ midRead.decoder.legal = true ∧ midRead.inputs = [.transfer 0x00 good] ∧
    Input.transfer 0x00 good ≠ .overlapping := by decide
theorem witness_AccessCountInvariant : midRead.Counted ∧ midRead.created = true ∧ ∃ t, step midRead = .next t :=
  ⟨fun _ => by decide, by decide, midRead_steps⟩
/-- The second clause in `Done`: one access shown. -/
theorem witness_AccessCountInvariant_done :
    (at' inDone.decoder none [] [.exchange ⟨0x5A, 0x00, .ok, some (.write 0x001000 1 [0x5A])⟩, quiet 0x00, quiet 0x10, quiet 0x00, quiet 0x02]).Counted :=
  fun _ => by decide
theorem witness_RecordFollowsTheWire : midRead.FollowsWire ∧ ∃ t, step midRead = .next t :=
  ⟨fun _ => ⟨by decide, 0x82, 0x00, 0x20, 0x00, [], by decide, by decide, by decide, by decide, by decide⟩, midRead_steps⟩

/-- Every operation gives a next state somewhere: the hypothesis of NextStateTable, OnlyBoundaryEntersIdleOrLeavesSinks,
AccessOnlyFromTwoOperations, AccessMapFrame and ReadPhaseIgnoresIncomingByte. -/
theorem witness_exec_next :
    (∃ t, exec (.hdrRd 1 false) State.reset = .next t) ∧ (∃ t, exec (.hdrWr 4 false) State.reset = .next t) ∧
    (∃ t, exec (.addr 0x12) (inAddress 3) = .next t) ∧ (∃ t, exec (.addrLast 0x12) (inAddress 1) = .next t) ∧
    (∃ t, exec (.wdata 0x12) (inWrite 2 2) = .next t) ∧ (∃ t, exec (.wdataLast 0x12) (inWrite 2 1) = .next t) ∧
    (∃ t, exec (.rdataFirst 0x12) (inRead 2 2) = .next t) ∧ (∃ t, exec (.rdataNext 0x12) (inRead 2 1) = .next t) ∧
    (∃ t, exec (.zdata 0x12) (inZero .read) = .next t) ∧ (∃ t, exec (.drain 0x12) inDone = .next t) ∧
    (∃ t, exec (.conf 0x12) inConfused = .next t) ∧ (∃ t, exec .reset inDone = .next t) ∧ (∃ t, exec .init uncreated = .next t) :=
  ⟨runs_next (by decide), runs_next (by decide), runs_next (by decide), runs_next (by decide), runs_next (by decide),
    runs_next (by decide), runs_next (by decide), runs_next (by decide), runs_next (by decide), runs_next (by decide),
    runs_next (by decide), runs_next (by decide), runs_next (by decide)⟩

/-- The two outcomes of a write and of a read, the violation, a quiet byte and a reset: the hypotheses of StatusByOperation,
ErrorEntryWritesNothingElse and RequestPorts. -/
theorem witness_shown :
    (∃ t x, exec (.wdataLast 0x12) (inWrite 2 1 good) = .next t ∧ t.trace = .exchange x :: (inWrite 2 1 good).trace ∧
      x.status = .ok ∧ x.request = some (.write 0x001000 2 [0x00, 0x12])) ∧
    (∃ t x, exec (.wdataLast 0x12) (inWrite 2 1 failing) = .next t ∧ t.trace = .exchange x :: (inWrite 2 1 failing).trace ∧
      x.status = .collabFault .write 0x001000 2 ∧ x.request = some (.write 0x001000 2 [0x00, 0x12])) ∧
    (∃ t x, exec (.rdataFirst 0x12) (inRead 63 4 good) = .next t ∧ t.trace = .exchange x :: (inRead 63 4 good).trace ∧
      x.status = .ok ∧ x.request = some (.read 0x001000 4)) ∧
    (∃ t x, exec (.rdataFirst 0x12) (inRead 1 1 failing) = .next t ∧ t.trace = .exchange x :: (inRead 1 1 failing).trace ∧
      x.status = .collabFault .read 0x001000 1 ∧ x.request = some (.read 0x001000 1)) ∧
    (∃ t x, exec (.zdata 0x12) (inZero .write) = .next t ∧ t.trace = .exchange x :: (inZero .write).trace ∧
      x.status = .violation .zeroSizeData ∧ x.request = none) ∧
    (∃ t x, exec (.drain 0x12) inDone = .next t ∧ t.trace = .exchange x :: inDone.trace ∧ x.status = .ok ∧ x.request = none) :=
  ⟨shown_next (b := 0x12) (by decide) ⟨0x12, rfl⟩, shown_next (b := 0x12) (by decide) ⟨0x12, rfl⟩,
    shown_next (b := 0x12) (by decide) ⟨0x12, rfl⟩, shown_next (b := 0x12) (by decide) ⟨0x12, rfl⟩,
    shown_next (b := 0x12) (by decide) ⟨0x12, rfl⟩, shown_next (b := 0x12) (by decide) ⟨0x12, rfl⟩⟩

theorem witness_DuplexBalance : midRead.created = true ∧ midRead.decoder.legal = true ∧ midRead.inputs = [.transfer 0x00 good] ∧
    (at' inDone.decoder none [.deselect]).created = true ∧ (at' inDone.decoder none [.deselect]).inputs = [.deselect] := by decide
theorem witness_DuplexBalance_run : ∃ t, (at' State.reset.decoder none [.transfer 0x82 none, .deselect]).run 2 = .next t :=
  runs_next (by decide)

theorem witness_SinksHoldUntilReset :
    (at' inDone.decoder none [.transfer 0x82 none, .transfer 0x00 none, .deselect]).created = true ∧
    inDone.decoder.legal = true ∧ inDone.decoder.state = .done ∧ inConfused.decoder.legal = true ∧ inConfused.decoder.state = .confused ∧
    (at' inDone.decoder none [.transfer 0x82 none, .transfer 0x00 none, .deselect]).inputs =
      [.transfer 0x82 none, .transfer 0x00 none] ++ [.deselect] ∧
    [Input.transfer 0x82 none, .transfer 0x00 none].all Input.isTransfer = true := by decide

/-- The events of a transaction, from the record after reset. -/
def fromReset (ins : List Input) : State := at' State.reset.decoder none ins

/-- V-W1 (N = 1) and V-W4 (size 40, N = 4). -/
theorem witness_WriteTransaction :
    ((fromReset (xfers [0x02, 0x12, 0x34, 0x56, 0x5A] (List.replicate 5 none))).created = true ∧
      (fromReset (xfers [0x02, 0x12, 0x34, 0x56, 0x5A] (List.replicate 5 none))).decoder = State.reset.decoder ∧
      (fromReset (xfers [0x02, 0x12, 0x34, 0x56, 0x5A] (List.replicate 5 none))).exchanges = [] ∧
      (0x02 : Byte).toNat < 128 ∧ [(0x5A : Byte)].length = min ((0x02 : Byte).toNat / 2 % 64) 4 ∧ 1 ≤ [(0x5A : Byte)].length ∧
      (List.replicate 5 (none : Option Response)).length = 4 + [(0x5A : Byte)].length ∧
      (fromReset (xfers [0x02, 0x12, 0x34, 0x56, 0x5A] (List.replicate 5 none))).inputs =
        List.zipWith Input.transfer ([0x02, 0x12, 0x34, 0x56] ++ [0x5A]) (List.replicate 5 none) ++ []) ∧
    ((fromReset (xfers [0x50, 0x12, 0x34, 0x56, 0xA1, 0xA2, 0xA3, 0xA4] (List.replicate 8 none))).created = true ∧
      (fromReset (xfers [0x50, 0x12, 0x34, 0x56, 0xA1, 0xA2, 0xA3, 0xA4] (List.replicate 8 none))).exchanges = [] ∧
      (0x50 : Byte).toNat < 128 ∧ [(0xA1 : Byte), 0xA2, 0xA3, 0xA4].length = min ((0x50 : Byte).toNat / 2 % 64) 4 ∧
      (List.replicate 8 (none : Option Response)).length = 4 + [(0xA1 : Byte), 0xA2, 0xA3, 0xA4].length ∧
      (fromReset (xfers [0x50, 0x12, 0x34, 0x56, 0xA1, 0xA2, 0xA3, 0xA4] (List.replicate 8 none))).inputs =
        List.zipWith Input.transfer ([0x50, 0x12, 0x34, 0x56] ++ [0xA1, 0xA2, 0xA3, 0xA4]) (List.replicate 8 none) ++ []) := by decide

/-- V-R1 (N = 1) and V-R4 (size 40, N = 4). -/
theorem witness_ReadTransaction :
    ((fromReset (xfers [0x82, 0x00, 0x20, 0x00, 0x00] [none, none, none, none, good])).created = true ∧
      (fromReset (xfers [0x82, 0x00, 0x20, 0x00, 0x00] [none, none, none, none, good])).decoder = State.reset.decoder ∧
      (fromReset (xfers [0x82, 0x00, 0x20, 0x00, 0x00] [none, none, none, none, good])).exchanges = [] ∧
      128 ≤ (0x82 : Byte).toNat ∧ [(0x00 : Byte)].length = min ((0x82 : Byte).toNat / 2 % 64) 4 ∧ 1 ≤ [(0x00 : Byte)].length ∧
      [none, none, none, none, good].length = 4 + [(0x00 : Byte)].length ∧
      [none, none, none, none, good][4]? = some (some { fail := false, data := #v[0xDE, 0xAD, 0xBE, 0xEF] }) ∧
      (fromReset (xfers [0x82, 0x00, 0x20, 0x00, 0x00] [none, none, none, none, good])).inputs =
        List.zipWith Input.transfer ([0x82, 0x00, 0x20, 0x00] ++ [0x00]) [none, none, none, none, good] ++ []) ∧
    (128 ≤ (0xD0 : Byte).toNat ∧ [(0x00 : Byte), 0x00, 0x00, 0x00].length = min ((0xD0 : Byte).toNat / 2 % 64) 4 ∧
      [none, none, none, none, good, none, none, none].length = 4 + [(0x00 : Byte), 0x00, 0x00, 0x00].length ∧
      [none, none, none, none, good, none, none, none][4]? = some good ∧
      (fromReset (xfers [0xD0, 0x12, 0x34, 0x56, 0, 0, 0, 0] [none, none, none, none, good, none, none, none])).inputs =
        List.zipWith Input.transfer ([0xD0, 0x12, 0x34, 0x56] ++ [0, 0, 0, 0]) [none, none, none, none, good, none, none, none] ++ []) := by
  decide

/-- The same bytes with a failing answer on the fifth, with an answer that does not fail, and with none stated. -/
theorem witness_ReadTransactionUnderAnyAnswer : ∀ q ∈ [failing, good, none],
    (fromReset (xfers [0x82, 0x00, 0x20, 0x00, 0x00] [none, none, none, none, q])).created = true ∧
    (fromReset (xfers [0x82, 0x00, 0x20, 0x00, 0x00] [none, none, none, none, q])).decoder = State.reset.decoder ∧
    (fromReset (xfers [0x82, 0x00, 0x20, 0x00, 0x00] [none, none, none, none, q])).exchanges = [] ∧
    128 ≤ (0x82 : Byte).toNat ∧ [(0x00 : Byte)].length = min ((0x82 : Byte).toNat / 2 % 64) 4 ∧ 1 ≤ [(0x00 : Byte)].length ∧
    [none, none, none, none, q].length = 4 + [(0x00 : Byte)].length ∧ [none, none, none, none, q][4]? = some q ∧
    (fromReset (xfers [0x82, 0x00, 0x20, 0x00, 0x00] [none, none, none, none, q])).inputs =
      List.zipWith Input.transfer ([0x82, 0x00, 0x20, 0x00] ++ [0x00]) [none, none, none, none, q] ++ [] := by decide
/-- Both clauses of it are met: an answer that does not fail and one that does. -/
theorem witness_ReadTransactionUnderAnyAnswer_clauses :
    (inRead 1 1 good).response.fail = false ∧ (inRead 1 1 failing).response.fail = true := by decide

/-- A 2-byte write, and a 4-byte read whose answers all fail. -/
theorem witness_PseudoOperationsMakeOneAccess :
    ((fromReset (writeProgram 2 0x00F004 [0xBE, 0xEF] (List.replicate 6 none) ++ [])).created = true ∧
      (fromReset (writeProgram 2 0x00F004 [0xBE, 0xEF] (List.replicate 6 none) ++ [])).decoder = State.reset.decoder ∧
      (fromReset (writeProgram 2 0x00F004 [0xBE, 0xEF] (List.replicate 6 none) ++ [])).exchanges = [] ∧
      (List.replicate 6 (none : Option Response)).length = 4 + 2 ∧ [(0xBE : Byte), 0xEF].length = 2) ∧
    ((fromReset (readProgram 4 0x00000C (List.replicate 8 failing) ++ [])).created = true ∧
      (fromReset (readProgram 4 0x00000C (List.replicate 8 failing) ++ [])).exchanges = [] ∧
      (List.replicate 8 failing).length = 4 + 4) := by decide

theorem witness_ResetIdempotent :
    (at' inDone.decoder none [.deselect, .deselect, .deselect]).created = true ∧
    (at' inDone.decoder none [.deselect, .deselect, .deselect]).inputs = List.replicate (2 + 1) Input.deselect ++ [] := by decide

/-- Two machines in different records, both clauses. -/
theorem witness_NoLeakageAcrossReset :
    ∃ u₁ u₂ t₁, exec .reset (at' inDone.decoder none [.transfer 0x82 good]) = .next u₁ ∧
      exec .reset (at' (inWrite 4 2).decoder none [.transfer 0x82 good]) = .next u₂ ∧ u₁.run 1 = .next t₁ ∧
      (at' inDone.decoder none [.transfer 0x82 good]).inputs.all Input.answered = true ∧
      (at' inDone.decoder none [.transfer 0x82 good]).draws = (at' (inWrite 4 2).decoder none [.transfer 0x82 good]).draws := by
  obtain ⟨t, ht⟩ := runs_next (o := ((at' inDone.decoder none [.transfer 0x82 good]).boundary .deselected).run 1) (by decide)
  exact ⟨_, _, t, rfl, rfl, ht, by decide, by decide⟩

theorem witness_DontCareReachesOnlyReplies :
    (inRead 2 2 good).rsp = good ∧ (∃ t, exec (.rdataFirst 0x12) (inRead 2 2 good) = .next t) ∧
    (∃ t, exec (.wdataLast 0x12) (inWrite 2 1 good) = .next t) := ⟨rfl, runs_next (by decide), runs_next (by decide)⟩

/-- Two answers that agree below the width 2 and differ above it. -/
theorem witness_UnusedAnswerIgnored :
    ∀ j : Fin 4, j.val < (inRead 2 2).decoder.N → (#v[0xDE, 0xAD, 0x00, 0x00] : Buffer)[j] = (#v[0xDE, 0xAD, 0xBE, 0xEF] : Buffer)[j] := by
  decide

theorem witness_BigEndianValue : [(0x11 : Byte), 0x22].length = [(0x11 : Byte), 0x22].length ∧
    beValue [(0x11 : Byte), 0x22] = beValue [(0x11 : Byte), 0x22] := by decide

end Sys2Proof.Tests
end

section
/-! R14, R58: `be_value` is the library's `Nat.ofDigits` in base 256 of the reversed vector; O50 follows from the library's facts about digits. -/

namespace Sys2Proof.Machine

/-- The digits of a byte vector in base 256, least significant first, as `Nat.ofDigits` takes them. -/
def byteDigits (v : List Byte) : List Nat := (v.map BitVec.toNat).reverse

@[simp] theorem byteDigits_length (v : List Byte) : (byteDigits v).length = v.length := by
  simp [byteDigits]

@[simp] theorem byteDigits_cons (b : Byte) (v : List Byte) :
    byteDigits (b :: v) = byteDigits v ++ [b.toNat] := by
  simp [byteDigits]

theorem lt_of_mem_byteDigits {v : List Byte} : ∀ x ∈ byteDigits v, x < 256 := by
  intro x hx
  obtain ⟨b, -, rfl⟩ : ∃ b ∈ v, b.toNat = x := by simpa [byteDigits] using hx
  exact b.isLt

theorem byteDigits_injective : Function.Injective byteDigits :=
  List.reverse_injective.comp (List.map_injective_iff.2 fun _ _ => BitVec.eq_of_toNat_eq)

theorem beValue_eq_ofDigits (v : List Byte) : beValue v = Nat.ofDigits 256 (byteDigits v) := by
  simp [beValue, byteDigits, Nat.ofDigits_eq_foldr, List.foldl_map, add_comm, mul_comm]

theorem beValue_lt (v : List Byte) : beValue v < 256 ^ v.length := by
  rw [beValue_eq_ofDigits, ← byteDigits_length]
  exact Nat.ofDigits_lt_base_pow_length (by decide) lt_of_mem_byteDigits

theorem beValue_cons (b : Byte) (v : List Byte) :
    beValue (b :: v) = b.toNat * 256 ^ v.length + beValue v := by
  rw [beValue_eq_ofDigits, beValue_eq_ofDigits, byteDigits_cons, Nat.ofDigits_append,
    Nat.ofDigits_singleton, byteDigits_length, add_comm, mul_comm]

theorem eq_of_beValue_eq {v w : List Byte} (hlen : v.length = w.length)
    (hval : beValue v = beValue w) : v = w := by
  rw [beValue_eq_ofDigits, beValue_eq_ofDigits] at hval
  exact byteDigits_injective <| Nat.ofDigits_inj_of_len_eq (by decide) (by simpa using hlen)
    lt_of_mem_byteDigits lt_of_mem_byteDigits hval

/-- R57: the address register holds the three address bytes, the first the most significant. -/
theorem assembled_toNat (a2 a1 a0 : Byte) : (assembled a2 a1 a0).toNat = beValue [a2, a1, a0] := by
  have h2 : a2.toNat < 256 := a2.isLt
  have h1 : a1.toNat < 256 := a1.isLt
  have h0 : a0.toNat < 256 := a0.isLt
  have hor : (assembled a2 a1 a0).toNat = a2.toNat <<< 16 ||| (a1.toNat <<< 8 ||| a0.toNat) := by
    simp (disch := omega) [assembled, Nat.mod_eq_of_lt, Nat.shiftLeft_eq, Nat.or_assoc]
  have hsum : a2.toNat <<< 16 ||| (a1.toNat <<< 8 ||| a0.toNat) =
      a2.toNat <<< 16 + (a1.toNat <<< 8 + a0.toNat) := by
    rw [← Nat.shiftLeft_add_eq_or_of_lt (i := 8) h0, ← Nat.shiftLeft_add_eq_or_of_lt (by omega)]
  simp only [hor, hsum, beValue, List.foldl]
  omega

/-- Settles O50, by reading a vector as its digits in base 256. -/
theorem bigEndianValue : Obligations.BigEndianValue :=
  ⟨beValue_lt, fun v b => beValue_cons b v, fun _ _ => eq_of_beValue_eq,
    fun _ => ⟨rfl, rfl⟩, assembled_toNat⟩

end Sys2Proof.Machine
end

section
/-! R92, R100: what every operation does in one table, and the inversion of a meaning, a decoded event and a step through that table. -/

namespace Sys2Proof.Machine

section Effects
variable (s : State) (d : Decoder) (a : Access) (cause : ViolationCause)

@[simp] theorem quietEffect_decoder : (quietEffect s d).decoder = d := rfl
@[simp] theorem quietEffect_request : (quietEffect s d).request = none := rfl
@[simp] theorem accessEffect_decoder : (accessEffect s a d).decoder = d.finish := rfl
@[simp] theorem accessEffect_request : (accessEffect s a d).request = some a := rfl
@[simp] theorem raiseProtocolViolation_decoder :
    (raiseProtocolViolation s cause).decoder = { s.decoder with state := .confused } := rfl
@[simp] theorem raiseProtocolViolation_request : (raiseProtocolViolation s cause).request = none := rfl
@[simp] theorem readSuccess_decoder : (readSuccess s).decoder =
    { s.decoder with dataBuffer := fillBytes s.decoder.N s.response.data s.decoder.dataBuffer }.countDown := rfl
@[simp] theorem readSuccess_request : (readSuccess s).request = some (memRead s.decoder) := rfl

end Effects

/-- The effect each meaning completes its call with. A boundary operation completes no call: of its row only the record counts,
which is the reset record. -/
def State.effect (s : State) : Instr → Effect
  | .hdrRd size _ => quietEffect s (s.decoder.acceptHeader .read (BitVec.ofNat Config.sizeBits size))
  | .hdrWr size _ => quietEffect s (s.decoder.acceptHeader .write (BitVec.ofNat Config.sizeBits size))
  | .addr b => quietEffect s (s.decoder.acceptAddress b)
  | .addrLast b => quietEffect s { s.decoder.acceptAddress b with state := .data }
  | .wdata b => quietEffect s (s.decoder.acceptData b)
  | .wdataLast b =>
    accessEffect s (memWrite s.decoder (writeVector s.decoder.N b s.decoder.dataBuffer)) (s.decoder.acceptData b)
  | .rdataFirst _ => if s.response.fail then accessEffect s (memRead s.decoder) s.decoder else readSuccess s
  | .rdataNext _ =>
    { decoder := s.decoder.countDown
      reply := loadByte (dataIndex s.decoder.N s.decoder.dataRemaining.toNat) s.dontCare s.decoder.dataBuffer
      status := .ok
      request := none }
  | .zdata _ => raiseProtocolViolation s .zeroSizeData
  | .drain _ => quietEffect s s.decoder
  | .conf _ => quietEffect s s.decoder
  | .reset => quietEffect s Decoder.reset
  | .init => quietEffect s Decoder.reset

/-- R160: the first byte of a read fails or succeeds. -/
theorem effect_rdataFirst (s : State) (b : Byte) :
    s.effect (.rdataFirst b) = accessEffect s (memRead s.decoder) s.decoder ∨
      s.effect (.rdataFirst b) = readSuccess s := by
  cases hf : s.response.fail
  · exact .inr (by simp [State.effect, hf])
  · exact .inl (by simp [State.effect, hf])

/-- The row conditions of R92 as propositions about the record. -/
def Decoder.Selects (d : Decoder) : Instr → Prop
  | .hdrRd _ _ => d.state = .idle
  | .hdrWr _ _ => d.state = .idle
  | .addr _ => d.state = .address ∧ 2 ≤ d.addressRemaining.toNat ∧ d.addressRemaining.toNat ≤ Config.addrBytes
  | .addrLast _ => d.state = .address ∧ d.addressRemaining = 1
  | .wdata _ => d.state = .data ∧ d.header.direction = .write ∧ 0 < d.N ∧ 2 ≤ d.dataRemaining.toNat
  | .wdataLast _ => d.state = .data ∧ d.header.direction = .write ∧ 0 < d.N ∧ d.dataRemaining.toNat = 1
  | .rdataFirst _ => d.state = .data ∧ d.header.direction = .read ∧ 0 < d.N ∧ d.dataRemaining.toNat = d.N
  | .rdataNext _ =>
    d.state = .data ∧ d.header.direction = .read ∧ 0 < d.N ∧ 1 ≤ d.dataRemaining.toNat ∧ d.dataRemaining.toNat < d.N
  | .zdata _ => d.state = .data ∧ d.N = 0
  | .drain _ => d.state = .done
  | .conf _ => d.state = .confused
  | .reset => True
  | .init => True

theorem selectedAt_position_iff (d : Decoder) (i : Instr) : i.selectedAt d.position = true ↔ d.Selects i := by
  cases i
  case reset => exact iff_of_true rfl trivial
  case init => exact iff_of_true rfl trivial
  all_goals exact decide_eq_true_iff

/-- The guard of a call: a legal record on which the operation's row of R92 is the one selected. -/
theorem selects_iff_decoder_selects (s : State) (i : Instr) :
    s.selects i = true ↔ s.decoder.legal = true ∧ i.wellFormed = true ∧ s.decoder.Selects i := by
  rw [State.selects_iff, selectedAt_position_iff]

/-- Every operation on a byte is the guarded call with its effect. -/
theorem exec_eq_transfer {i : Instr} {b : Byte} (hb : encode i = .transfer b) (s : State) :
    exec i s = s.transfer i b (s.effect i) := by
  cases i <;> cases hb <;> rfl

/-- Whatever operation ran, the record is that of its effect. -/
theorem decoder_of_exec {i : Instr} {s t : State} (h : exec i s = .next t) : t.decoder = (s.effect i).decoder := by
  obtain ⟨rfl, -, rfl⟩ | ⟨rfl, rfl⟩ | ⟨b, -, hb, -⟩ := exec_next_cases i s t h
  · rfl
  · rfl
  · rw [exec_eq_transfer hb, State.transfer_eq_next] at h
    obtain ⟨-, -, rfl⟩ := h
    rfl

/-- An operation other than the two boundaries is a completed call where R92 selects it. -/
theorem selects_of_exec {i : Instr} {s t : State} (h : exec i s = .next t) (hr : i ≠ .reset) (hi : i ≠ .init) :
    s.selects i = true := by
  obtain ⟨h, -⟩ | ⟨h, -⟩ | ⟨_, _, -, -, hsel, -⟩ := exec_next_cases i s t h
  · exact absurd h hr
  · exact absurd h hi
  · exact hsel

/-- R92, state `Idle`: the header operation a byte decodes to stands for that byte and has a size of 6 bits. -/
theorem decodeIdle_sound (b : Byte) : encode (decodeIdle b) = .transfer b ∧ (decodeIdle b).wellFormed = true := by
  have hfields := headerByte_fields b
  have hsize : (headerSize b).toNat < 64 := (headerSize b).isLt
  cases hd : headerDirection b <;> rw [hd] at hfields <;>
    simp [decodeIdle, hd, encode, Instr.wellFormed, hfields, hsize]

/-- R92: the operation a byte decodes to stands for that byte, is well-formed, and its row's condition holds. -/
theorem decode_sound {p : Position} {b : Byte} {i : Instr} (h : decode p (.transfer b) = some i) :
    encode i = .transfer b ∧ i.wellFormed = true ∧ i.selectedAt p = true := by
  cases hst : p.state <;> simp only [decode, hst] at h
  case idle =>
    obtain rfl := Option.some.inj h
    obtain ⟨henc, hwf⟩ := decodeIdle_sound b
    refine ⟨henc, hwf, ?_⟩
    cases hd : headerDirection b <;> simp [decodeIdle, hd, Instr.selectedAt, hst]
  case address => grind [decodeAddress, encode, Instr.wellFormed, Instr.selectedAt]
  case data => grind [decodeData, encode, Instr.wellFormed, Instr.selectedAt]
  case done => cases h; simp [encode, Instr.wellFormed, Instr.selectedAt, hst]
  case confused => cases h; simp [encode, Instr.wellFormed, Instr.selectedAt, hst]

theorem Decoder.dataRemaining_of_N_eq_zero {d : Decoder} (hl : d.legal = true) (hst : d.state = .data) (hN : d.N = 0) :
    d.dataRemaining = 0 := by
  obtain ⟨-, ⟨-, h0⟩ | ⟨hpos, hle⟩⟩ := (d.legal_data hst).mp hl
  · exact h0
  · omega

theorem Decoder.dataRemaining_range {d : Decoder} (hl : d.legal = true) (hst : d.state = .data) (hN : d.N ≠ 0) :
    1 ≤ d.dataRemaining.toNat ∧ d.dataRemaining.toNat ≤ d.N := by
  obtain ⟨-, ⟨h0, -⟩ | hrange⟩ := (d.legal_data hst).mp hl
  · exact absurd h0 hN
  · exact hrange

/-- R38, R92: in a legal state every byte selects an operation. -/
theorem exists_decode_of_legal {d : Decoder} (hl : d.legal = true) (b : Byte) :
    ∃ i, decode d.position (.transfer b) = some i := by
  cases hst : d.state <;> simp only [decode, Decoder.position_state, hst]
  case address =>
    obtain ⟨hmin, hmax, -⟩ := (d.legal_address hst).mp hl
    by_cases hlast : d.addressRemaining = 1
    · exact ⟨.addrLast b, if_pos hlast⟩
    · have hmore : d.addressRemaining.toNat ≠ 1 := mt (addrCount_eq_one _).mpr hlast
      exact ⟨.addr b, (if_neg hlast).trans (if_pos ⟨by change 2 ≤ d.addressRemaining.toNat; omega, hmax⟩)⟩
  case data =>
    by_cases hN : d.N = 0
    · exact ⟨.zdata b, if_pos hN⟩
    · obtain ⟨hpos, hle⟩ := d.dataRemaining_range hl hst hN
      cases hdir : d.header.direction
      case write =>
        by_cases hlast : d.dataRemaining.toNat = 1
        · exact ⟨.wdataLast b, by simp [decodeData, hN, hdir, hlast]⟩
        · have hmore : 2 ≤ d.dataRemaining.toNat := by omega
          exact ⟨.wdata b, by simp [decodeData, hN, hdir, hlast, hmore]⟩
      case read =>
        by_cases hfirst : d.dataRemaining.toNat = d.N
        · exact ⟨.rdataFirst b, by simp [decodeData, hN, hdir, hfirst]⟩
        · have hnext : 1 ≤ d.dataRemaining.toNat ∧ d.dataRemaining.toNat < d.N := ⟨hpos, by omega⟩
          exact ⟨.rdataNext b, by simp [decodeData, hN, hdir, hfirst, hnext]⟩
  all_goals exact ⟨_, rfl⟩

/-- R67, R100: in a legal state a step on a byte completes the call of the operation selected. -/
theorem step_transfer {s : State} {b : Byte} {r : Option Response} {rest : List Input} (hc : s.created = true)
    (hl : s.decoder.legal = true) (hin : s.inputs = .transfer b r :: rest) :
    ∃ i, encode i = .transfer b ∧ (s.take rest r).selects i = true ∧
      step s = .next ((s.take rest r).complete b ((s.take rest r).effect i)) := by
  obtain ⟨i, hd⟩ := exists_decode_of_legal hl b
  obtain ⟨henc, hwf, hsel⟩ := decode_sound hd
  have hs : (s.take rest r).selects i = true := (State.selects_iff ..).mpr ⟨hl, hwf, hsel⟩
  have hstep : step s = exec i (s.take rest r) := by simp [step, fetch, hin, fetchTransfer, hc, hl, hd]
  refine ⟨i, henc, hs, ?_⟩
  rw [hstep, exec_eq_transfer henc, State.transfer_eq_next]
  exact ⟨hc, hs, rfl⟩

/-- The induction step of every invariant of a created decoder: what the two boundaries establish, and taking an event and
completing the call of a selected operation keep, every step keeps. -/
theorem step_keeps {Q : State → Prop} (htake : ∀ (s : State) rest r, Q s → Q (s.take rest r))
    (hreset : ∀ s : State, Q (s.boundary .deselected)) (hinit : ∀ s : State, Q (s.boundary .created))
    (hcall : ∀ (s : State) i b, encode i = .transfer b → s.selects i = true → Q s → Q (s.complete b (s.effect i)))
    {s t : State} (hs : s.created = true → Q s) (h : step s = .next t) : t.created = true → Q t := by
  obtain ⟨-, rfl⟩ | ⟨rest, -, -, rfl⟩ | ⟨rest, -, rfl⟩ | ⟨b, r, rest, i, -, hc, -, hd, hexec⟩ := step_next_cases s t h
  · exact hs
  · exact fun _ => hreset _
  · exact fun _ => hinit _
  · obtain ⟨henc, -⟩ := decode_sound hd
    rw [exec_eq_transfer henc, State.transfer_eq_next] at hexec
    obtain ⟨-, hsel, rfl⟩ := hexec
    exact fun _ => hcall _ i b henc hsel (htake s rest r (hs hc))

end Sys2Proof.Machine
end

section
/-! R38 and R205 update by update: each write of the record lands in its row of the legal states, with the access count of R205. The
statements about the state (O22, O27, O28, O30, O36, O38, O40) and its snapshot (O8) follow. -/

namespace Sys2Proof.Machine

/-- A counter one less than a count is that count minus one, at 0 too. -/
theorem toNat_pred {w : Nat} (m : BitVec w) : (BitVec.ofNat w (m.toNat - 1)).toNat = m.toNat - 1 := by
  rw [BitVec.toNat_ofNat, Nat.mod_eq_of_lt ((Nat.sub_le _ _).trans_lt m.isLt)]

theorem Decoder.N_eq_min (d : Decoder) : d.N = min d.header.size.toNat 4 := rfl
@[simp] theorem Decoder.acceptData_N (d : Decoder) (b : Byte) : (d.acceptData b).N = d.N := rfl
@[simp] theorem Decoder.countDown_N (d : Decoder) : d.countDown.N = d.N := rfl

/-! ### The rows of R38 that an update reaches -/

theorem Decoder.acceptHeader_legal (d : Decoder) (dir : Direction) (size : BitVec Config.sizeBits) :
    (d.acceptHeader dir size).legal = true := by
  refine (Decoder.legal_address _ rfl).mpr ⟨?_, ?_, ?_⟩
  · rw [d.acceptHeader_addressRemaining, toNat_addrCount _ le_rfl]; decide
  · rw [d.acceptHeader_addressRemaining, toNat_addrCount _ le_rfl]
  · exact toNat_dataCount _ (clampN_le _)

theorem Decoder.acceptAddress_legal {d : Decoder} (b : Byte) (hl : d.legal = true) (hst : d.state = .address)
    (har : 2 ≤ d.addressRemaining.toNat) : (d.acceptAddress b).legal = true := by
  obtain ⟨-, hmax, hdr⟩ := (d.legal_address hst).mp hl
  have hcount : (d.acceptAddress b).addressRemaining.toNat = d.addressRemaining.toNat - 1 := toNat_pred _
  exact (Decoder.legal_address (d.acceptAddress b) hst).mpr ⟨by omega, by omega, hdr⟩

theorem Decoder.acceptAddress_data_legal {d : Decoder} (b : Byte) (hl : d.legal = true) (hst : d.state = .address)
    (har : d.addressRemaining = 1) : { d.acceptAddress b with state := .data }.legal = true := by
  obtain ⟨-, -, hdr⟩ := (d.legal_address hst).mp hl
  refine (Decoder.legal_data _ rfl).mpr ⟨?_, ?_⟩
  · simp [har]
  · rcases Nat.eq_zero_or_pos d.N with h0 | hpos
    · exact .inl ⟨h0, BitVec.eq_of_toNat_eq (hdr.trans h0)⟩
    · exact .inr ⟨hdr ▸ hpos, hdr.le⟩

theorem Decoder.acceptData_legal {d : Decoder} (b : Byte) (hl : d.legal = true) (hst : d.state = .data)
    (hN : d.N ≠ 0) (hdr : 2 ≤ d.dataRemaining.toNat) : (d.acceptData b).legal = true := by
  obtain ⟨har, -⟩ := (d.legal_data hst).mp hl
  obtain ⟨-, hle⟩ := d.dataRemaining_range hl hst hN
  have hcount : (d.acceptData b).dataRemaining.toNat = d.dataRemaining.toNat - 1 := toNat_pred _
  exact (Decoder.legal_data (d.acceptData b) hst).mpr ⟨har, .inr ⟨by omega, by rw [hcount, d.acceptData_N]; omega⟩⟩

theorem Decoder.finish_legal {d : Decoder} (har : d.addressRemaining = 0) : d.finish.legal = true :=
  (Decoder.legal_done _ rfl).mpr ⟨har, rfl⟩

theorem Decoder.countDown_legal {d : Decoder} (hst : d.state = .data) (har : d.addressRemaining = 0)
    (hpos : 1 ≤ d.dataRemaining.toNat) (hle : d.dataRemaining.toNat ≤ d.N) : d.countDown.legal = true := by
  have hcount : d.countDown.dataRemaining.toNat = d.dataRemaining.toNat - 1 := toNat_pred _
  by_cases hlast : d.dataRemaining.toNat - 1 = 0
  · refine (Decoder.legal_done _ (by simp [hlast])).mpr ⟨har, BitVec.eq_of_toNat_eq ?_⟩
    exact hcount.trans hlast
  · refine (Decoder.legal_data _ (by simp [hlast, hst])).mpr ⟨har, .inr ⟨by omega, ?_⟩⟩
    rw [hcount, d.countDown_N]
    omega

theorem Decoder.confused_legal {d : Decoder} (hl : d.legal = true) (hst : d.state = .data) (hN : d.N = 0) :
    { d with state := .confused }.legal = true := by
  obtain ⟨har, -⟩ := (d.legal_data hst).mp hl
  have hsize : d.header.size.toNat = 0 := by rw [d.N_eq_min] at hN; omega
  exact (Decoder.legal_confused _ rfl).mpr ⟨har, d.dataRemaining_of_N_eq_zero hl hst hN, BitVec.eq_of_toNat_eq hsize⟩

/-- R38: every operation R92 selects leaves a legal record. -/
theorem effect_legal {s : State} {i : Instr} (hsel : s.selects i = true) : (s.effect i).decoder.legal = true := by
  obtain ⟨hl, -, hat⟩ := (selects_iff_decoder_selects s i).mp hsel
  have har (hst : s.decoder.state = .data) : s.decoder.addressRemaining = 0 := ((s.decoder.legal_data hst).mp hl).1
  cases i
  case hdrRd => exact Decoder.acceptHeader_legal ..
  case hdrWr => exact Decoder.acceptHeader_legal ..
  case addr => exact Decoder.acceptAddress_legal _ hl hat.1 hat.2.1
  case addrLast => exact Decoder.acceptAddress_data_legal _ hl hat.1 hat.2
  case wdata =>
    obtain ⟨hst, -, hN, hdr⟩ := hat
    exact Decoder.acceptData_legal _ hl hst hN.ne' hdr
  case wdataLast => exact Decoder.finish_legal (har hat.1)
  case rdataFirst =>
    obtain ⟨hst, -, hN, hdr⟩ := hat
    obtain he | he := effect_rdataFirst s _ <;> rw [he]
    · exact Decoder.finish_legal (har hst)
    · exact Decoder.countDown_legal hst (har hst) (hdr ▸ hN) hdr.le
  case rdataNext =>
    obtain ⟨hst, -, -, hpos, hlt⟩ := hat
    exact Decoder.countDown_legal hst (har hst) hpos hlt.le
  case zdata => exact Decoder.confused_legal hl hat.1 hat.2
  case drain => exact hl
  case conf => exact hl
  case reset => exact Decoder.legal_reset
  case init => exact Decoder.legal_reset

/-- Settles O27, state by state for R38's table; a step keeps it since every selected operation does. -/
theorem legalStatesInvariant : Obligations.LegalStatesInvariant := by
  refine ⟨fun d => ?_, fun s t hs h => ?_⟩
  · rw [← d.N_eq_min]
    cases hst : d.state
    case idle => simp [d.legal_idle hst, State.reset]
    case address => simp [d.legal_address hst]
    case data => simp [d.legal_data hst]
    case done => simp [d.legal_done hst]
    case confused => simp [d.legal_confused hst]
  · exact step_keeps (Q := fun s => s.decoder.legal = true) (fun _ _ _ hl => hl) (fun _ => Decoder.legal_reset)
      (fun _ => Decoder.legal_reset) (fun _ _ _ _ hsel _ => effect_legal hsel) hs h

/-! ### The access count of R205 -/

theorem Decoder.accessesMade_le_one (d : Decoder) : d.accessesMade ≤ 1 := by
  unfold Decoder.accessesMade
  repeat' split
  all_goals omega

theorem Decoder.accessesMade_outside_data {d : Decoder}
    (hst : d.state = .idle ∨ d.state = .address ∨ d.state = .confused) : d.accessesMade = 0 := by
  rcases hst with hst | hst | hst <;> simp [Decoder.accessesMade, hst]

theorem Decoder.accessesMade_of_done {d : Decoder} (hst : d.state = .done) : d.accessesMade = 1 := by
  simp [Decoder.accessesMade, hst]

theorem Decoder.accessesMade_of_write {d : Decoder} (hst : d.state = .data) (hdir : d.header.direction = .write) :
    d.accessesMade = 0 := by
  simp [Decoder.accessesMade, hst, hdir]

/-- In `Data` with as many bytes to come as the transaction has, nothing was accessed, whatever the direction. -/
theorem Decoder.accessesMade_of_full {d : Decoder} (hst : d.state = .data) (hdr : d.dataRemaining.toNat = d.N) :
    d.accessesMade = 0 := by
  cases hdir : d.header.direction <;> simp [Decoder.accessesMade, hst, hdir, hdr]

theorem Decoder.accessesMade_of_reading {d : Decoder} (hst : d.state = .data) (hdir : d.header.direction = .read)
    (hdr : d.dataRemaining.toNat ≠ d.N) : d.accessesMade = 1 := by
  simp [Decoder.accessesMade, hst, hdir, hdr]

/-- R160, R161: once a byte of a read was replied, its access was made. -/
theorem Decoder.accessesMade_countDown {d : Decoder} (hst : d.state = .data) (hdir : d.header.direction = .read)
    (hpos : 1 ≤ d.dataRemaining.toNat) (hle : d.dataRemaining.toNat ≤ d.N) : d.countDown.accessesMade = 1 := by
  by_cases hlast : d.dataRemaining.toNat - 1 = 0
  · exact Decoder.accessesMade_of_done (by simp [hlast])
  · refine Decoder.accessesMade_of_reading (by simp [hlast, hst]) hdir ?_
    have hcount : d.countDown.dataRemaining.toNat = d.dataRemaining.toNat - 1 := toNat_pred _
    rw [hcount, d.countDown_N]
    omega

/-- R205: the count of the record grows by the access an operation requests. -/
theorem accessesMade_effect {s : State} {i : Instr} {b : Byte} (hb : encode i = .transfer b) (hsel : s.selects i = true) :
    (s.effect i).decoder.accessesMade = s.decoder.accessesMade + (s.effect i).request.toList.length := by
  obtain ⟨hl, -, hat⟩ := (selects_iff_decoder_selects s i).mp hsel
  cases i
  case hdrRd => rw [Decoder.accessesMade_outside_data (.inl hat)]; rfl
  case hdrWr => rw [Decoder.accessesMade_outside_data (.inl hat)]; rfl
  case addr =>
    rw [Decoder.accessesMade_outside_data (.inr (.inl hat.1))]
    exact Decoder.accessesMade_outside_data (.inr (.inl hat.1))
  case addrLast =>
    obtain ⟨-, -, hdr⟩ := (s.decoder.legal_address hat.1).mp hl
    rw [Decoder.accessesMade_outside_data (.inr (.inl hat.1))]
    exact Decoder.accessesMade_of_full rfl hdr
  case wdata =>
    obtain ⟨hst, hdir, -⟩ := hat
    rw [Decoder.accessesMade_of_write hst hdir]
    exact Decoder.accessesMade_of_write hst hdir
  case wdataLast =>
    obtain ⟨hst, hdir, -⟩ := hat
    rw [Decoder.accessesMade_of_write hst hdir]
    exact Decoder.accessesMade_of_done rfl
  case rdataFirst =>
    obtain ⟨hst, hdir, hN, hdr⟩ := hat
    rw [Decoder.accessesMade_of_full hst hdr]
    obtain he | he := effect_rdataFirst s _ <;> rw [he]
    · exact Decoder.accessesMade_of_done rfl
    · exact Decoder.accessesMade_countDown hst hdir (hdr ▸ hN) hdr.le
  case rdataNext =>
    obtain ⟨hst, hdir, -, hpos, hlt⟩ := hat
    rw [Decoder.accessesMade_of_reading hst hdir hlt.ne]
    exact Decoder.accessesMade_countDown hst hdir hpos hlt.le
  case zdata =>
    obtain ⟨hst, hN⟩ := hat
    have hdr : s.decoder.dataRemaining.toNat = s.decoder.N := by
      rw [Decoder.dataRemaining_of_N_eq_zero hl hst hN, hN]; rfl
    rw [Decoder.accessesMade_of_full hst hdr]
    exact Decoder.accessesMade_outside_data (.inr (.inr rfl))
  case drain => rfl
  case conf => rfl
  case reset => cases hb
  case init => cases hb

/-- Settles O38: the count of the trace and that of the record grow together. -/
theorem accessCountInvariant : Obligations.AccessCountInvariant := by
  refine ⟨fun s t hs h => ?_, fun s hs hc => ?_⟩
  · refine step_keeps (Q := fun s => s.decoder.legal = true ∧ s.accesses.length = s.decoder.accessesMade)
      (fun _ _ _ hq => hq) (fun _ => ⟨Decoder.legal_reset, rfl⟩) (fun _ => ⟨Decoder.legal_reset, rfl⟩) ?_ hs h
    rintro s i b hb hsel ⟨-, hcount⟩
    refine ⟨effect_legal hsel, ?_⟩
    rw [State.accesses_complete, List.length_append, hcount, State.complete_decoder, accessesMade_effect hb hsel]
  · obtain ⟨-, hcount⟩ := hs hc
    exact ⟨hcount ▸ s.decoder.accessesMade_le_one,
      fun hst => List.eq_nil_of_length_eq_zero (hcount.trans (Decoder.accessesMade_outside_data hst)),
      fun hst => hcount.trans (Decoder.accessesMade_of_done hst)⟩

/-! ### Snapshots -/

theorem ofCode_eq_none_of_five_le (c : BitVec 3) : 5 ≤ c.toNat → Phase.ofCode c = none := by
  revert c; decide

/-- R22, R38: a record's own snapshot restores to it exactly where it is legal. -/
theorem restore_snapshot (d : Decoder) :
    d.snapshot.restore = if d.legal then .next d else .refused .badSnapshot := by
  have hcode : Phase.ofCode d.snapshot.state = some d.state := Phase.ofCode_code d.state
  unfold Snapshot.restore
  rw [hcode]
  rfl

theorem snapshot_of_restore {n : Snapshot} {d : Decoder} (h : n.restore = .next d) : d.snapshot = n ∧ d.legal = true := by
  unfold Snapshot.restore at h
  split at h
  · cases h
  · rename_i ph hph
    dsimp only at h
    split at h
    · rename_i hl
      cases h
      exact ⟨by simp [Decoder.snapshot, Phase.code_ofCode _ _ hph], hl⟩
    · cases h

/-- Settles O8, since each code of R22 is read back as its state and restoring is guarded by R38. -/
theorem snapshotRestore : Obligations.SnapshotRestore := by
  refine ⟨⟨rfl, rfl, rfl, rfl, rfl⟩, fun n hcode => ?_, fun d hl => ?_, fun d hl => ?_, fun n d h => snapshot_of_restore h⟩
  · simp [Snapshot.restore, ofCode_eq_none_of_five_le _ hcode]
  · simp [restore_snapshot, hl]
  · simp [restore_snapshot, hl]

/-! ### Progress, sinks and frames -/

/-- Settles O28: the decoder is total on R38, so each event runs the operation it selects. -/
theorem everyEventHasAStep : Obligations.EveryEventHasAStep := by
  intro s x rest hc hl hin hx
  cases x with
  | transfer b r =>
    obtain ⟨i, -, hsel, hstep⟩ := step_transfer hc hl hin
    exact ⟨_, hstep, rfl, hc, effect_legal hsel⟩
  | deselect =>
    exact ⟨(s.take rest none).boundary .deselected, by simp [step, fetch, hin, exec, execReset, hc], rfl, rfl,
      Decoder.legal_reset⟩
  | create =>
    exact ⟨(s.take rest none).boundary .created, by simp [step, fetch, hin, exec, execInit], rfl, rfl,
      Decoder.legal_reset⟩
  | overlapping => exact absurd rfl hx

/-- R26, R27: in a sink only DRAIN and CONF are selected among the byte operations, and they write nothing. -/
theorem effect_decoder_of_sink {s : State} {i : Instr} (hr : i ≠ .reset) (hi : i ≠ .init)
    (hat : s.decoder.Selects i) (hst : s.decoder.state = .done ∨ s.decoder.state = .confused) :
    (s.effect i).decoder = s.decoder := by
  cases i
  case drain => rfl
  case conf => rfl
  case reset => exact absurd rfl hr
  case init => exact absurd rfl hi
  all_goals rcases hst with hst | hst <;> simp [Decoder.Selects, hst] at hat

theorem Decoder.countDown_state_ne_idle {d : Decoder} (hst : d.state = .data) : d.countDown.state ≠ .idle := by
  rw [d.countDown_state, hst]
  split <;> simp

/-- R23: no byte operation enters `Idle`. -/
theorem effect_state_ne_idle {s : State} {i : Instr} (hr : i ≠ .reset) (hi : i ≠ .init)
    (hat : s.decoder.Selects i) : (s.effect i).decoder.state ≠ .idle := by
  cases i
  case rdataFirst =>
    obtain he | he := effect_rdataFirst s _ <;> rw [he]
    · simp
    · exact Decoder.countDown_state_ne_idle hat.1
  case rdataNext => exact Decoder.countDown_state_ne_idle hat.1
  case reset => exact absurd rfl hr
  case init => exact absurd rfl hi
  all_goals
    simp only [Decoder.Selects] at hat
    simp [State.effect, hat]

/-- Settles O30: any other operation ran where R92 selects it, and its effect decides. -/
theorem onlyBoundaryEntersIdleOrLeavesSinks : Obligations.OnlyBoundaryEntersIdleOrLeavesSinks := by
  intro s t i h hr hi
  obtain ⟨-, -, hat⟩ := (selects_iff_decoder_selects s i).mp (selects_of_exec h hr hi)
  rw [decoder_of_exec h]
  exact ⟨effect_state_ne_idle hr hi hat, effect_decoder_of_sink hr hi hat⟩

/-- Settles O36, since each update of the record writes only its own fields. -/
theorem accessMapFrame : Obligations.AccessMapFrame := by
  intro s t i h
  rw [decoder_of_exec h]
  cases i
  case rdataFirst =>
    obtain he | he := effect_rdataFirst s _ <;> rw [he] <;> exact ⟨rfl, rfl, rfl⟩
  case zdata => rfl
  case drain => rfl
  case conf => rfl
  case reset => rfl
  case init => rfl
  all_goals simp [State.effect]

/-! ### The reset state -/

/-- Settles O22: R40's values are the definition's. -/
theorem resetStateFields : Obligations.ResetStateFields := ⟨rfl, rfl, rfl, rfl, rfl, rfl⟩

/-- Settles O40: the reset record is legal, and nothing was shown. -/
theorem resetMeetsInvariants : Obligations.ResetMeetsInvariants :=
  ⟨fun _ => Decoder.legal_reset, fun _ => ⟨Decoder.legal_reset, rfl⟩, fun _ => ⟨Decoder.legal_reset, rfl, rfl, rfl⟩⟩

end Sys2Proof.Machine
end

section
/-! R52, R100: a call shows what its operation's effect requests, and only two operations request anything. O34 follows. -/

namespace Sys2Proof.Machine

/-- R100: an operation on a byte ran where R92 selects it, and its exchange shows the request of its effect. -/
theorem exchange_of_exec {i : Instr} {b : Byte} {s t : State} (hb : encode i = .transfer b) (h : exec i s = .next t) :
    s.selects i = true ∧ ∃ x, t.trace = .exchange x :: s.trace ∧ x.request = (s.effect i).request := by
  rw [exec_eq_transfer hb, State.transfer_eq_next] at h
  obtain ⟨-, hsel, rfl⟩ := h
  exact ⟨hsel, _, State.complete_trace .., rfl⟩

/-- R160: the read is requested whatever its answer. -/
theorem effect_request_rdataFirst (s : State) (b : Byte) :
    (s.effect (.rdataFirst b)).request = some (memRead s.decoder) := by
  obtain he | he := effect_rdataFirst s b <;> rw [he] <;> simp

/-- Settles O34: the two dispatching operations run only where `0 < N`, and `N` is the clamped width. -/
theorem accessOnlyFromTwoOperations : Obligations.AccessOnlyFromTwoOperations := by
  intro s t i h
  obtain ⟨rfl, -, rfl⟩ | ⟨rfl, rfl⟩ | ⟨b, -, hb, -⟩ := exec_next_cases i s t h
  · rfl
  · rfl
  · obtain ⟨hsel, x, htrace, hreq⟩ := exchange_of_exec hb h
    have hle : s.decoder.N ≤ 4 := s.decoder.N_le
    cases i
    case wdataLast c =>
      obtain ⟨-, -, -, -, hN, -⟩ := (selects_iff_decoder_selects ..).mp hsel
      have hlen := length_writeVector s.decoder.N c s.decoder.dataBuffer hN hle
      exact ⟨x, _, htrace, hreq, hlen, hN.trans_eq hlen.symm, hlen.trans_le hle⟩
    case rdataFirst c =>
      obtain ⟨-, -, -, -, hN, -⟩ := (selects_iff_decoder_selects ..).mp hsel
      exact ⟨x, s.decoder.N, htrace, hreq.trans (effect_request_rdataFirst s c), rfl, hN, hle⟩
    case reset => cases hb
    case init => cases hb
    all_goals exact ⟨x, htrace, hreq⟩

end Sys2Proof.Machine
end

section
/-! R85, R92: encoding and decoding are inverse to each other wherever a row selects, so the selection table is a list of the operations
that stand for a byte. O1, O2, O3, O4, O6 and O7 follow. -/

namespace Sys2Proof

/-! ### The header byte -/

/-- R80, R83: the byte of a header is fixed by its three fields. -/
theorem headerByte_eq_iff {d : Direction} {n : Nat} {r : Bool} {b : Byte} (hn : n < 64) :
    headerByte d n r = b ↔ headerDirection b = d ∧ (headerSize b).toNat = n ∧ headerReserved b = r := by
  constructor
  · rintro rfl
    rw [headerDirection_headerByte d n r hn, headerSize_headerByte d n r hn, headerReserved_headerByte d n r hn]
    exact ⟨rfl, Nat.mod_eq_of_lt hn, rfl⟩
  · rintro ⟨rfl, rfl, rfl⟩
    exact headerByte_fields b

theorem decodeIdle_headerByte (d : Direction) {n : Nat} (r : Bool) (hn : n < 64) :
    decodeIdle (headerByte d n r) = match d with | .read => .hdrRd n r | .write => .hdrWr n r := by
  obtain ⟨hdir, hsize, hrsv⟩ := (headerByte_eq_iff hn).mp (rfl : headerByte d n r = _)
  cases d <;> simp [decodeIdle, hdir, hsize, hrsv]

/-- R92: the byte match of HDR_RD is the direction bit. -/
theorem and_mask_eq_mask_iff (b : Byte) : b &&& 0x80 = 0x80 ↔ headerDirection b = .read := by
  revert b; decide

/-- R92: the byte match of HDR_WR is the direction bit clear. -/
theorem and_mask_eq_zero_iff (b : Byte) : b &&& 0x80 = 0x00 ↔ headerDirection b = .write := by
  revert b; decide

/-! ### Decoding and encoding -/

/-- R92: a row of the table that selects an operation is the row its event decodes by. -/
theorem decode_encode {i : Instr} {p : Position} (hwf : i.wellFormed = true) (hsel : i.selectedAt p = true) :
    decode p (encode i) = some i := by
  cases i
  case hdrRd n r =>
    have hst : p.state = .idle := of_decide_eq_true hsel
    simp only [decode, encode, hst, decodeIdle_headerByte .read r (of_decide_eq_true hwf)]
  case hdrWr n r =>
    have hst : p.state = .idle := of_decide_eq_true hsel
    simp only [decode, encode, hst, decodeIdle_headerByte .write r (of_decide_eq_true hwf)]
  case addr b =>
    obtain ⟨hst, hmin, hmax⟩ := of_decide_eq_true hsel
    have hlast : p.addressRemaining ≠ 1 := fun h => by rw [h] at hmin; exact absurd hmin (by decide)
    simp only [decode, encode, hst, decodeAddress, if_neg hlast, if_pos (And.intro hmin hmax)]
  case addrLast b =>
    obtain ⟨hst, hlast⟩ := of_decide_eq_true hsel
    simp only [decode, encode, hst, decodeAddress, if_pos hlast]
  case wdata b =>
    obtain ⟨hst, hdir, hN, hdr⟩ := of_decide_eq_true hsel
    simp only [decode, encode, hst, decodeData, hdir, if_neg hN.ne', if_pos hdr,
      if_neg (show p.dataRemaining.toNat ≠ 1 by omega)]
  case wdataLast b =>
    obtain ⟨hst, hdir, hN, hdr⟩ := of_decide_eq_true hsel
    simp only [decode, encode, hst, decodeData, hdir, if_neg hN.ne', if_pos hdr]
  case rdataFirst b =>
    obtain ⟨hst, hdir, hN, hdr⟩ := of_decide_eq_true hsel
    simp only [decode, encode, hst, decodeData, hdir, if_neg hN.ne', if_pos hdr]
  case rdataNext b =>
    obtain ⟨hst, hdir, hN, hpos, hlt⟩ := of_decide_eq_true hsel
    simp only [decode, encode, hst, decodeData, hdir, if_neg hN.ne', if_neg hlt.ne, if_pos (And.intro hpos hlt)]
  case zdata b =>
    obtain ⟨hst, hN⟩ := of_decide_eq_true hsel
    simp only [decode, encode, hst, decodeData, if_pos hN]
  case drain b =>
    have hst : p.state = .done := of_decide_eq_true hsel
    simp only [decode, encode, hst]
  case conf b =>
    have hst : p.state = .confused := of_decide_eq_true hsel
    simp only [decode, encode, hst]
  case reset => rfl
  case init => rfl

/-- R92: the operation a byte decodes to is the one that stands for the byte and whose row's condition holds. -/
theorem decode_transfer_iff {p : Position} {b : Byte} {i : Instr} :
    decode p (.transfer b) = some i ↔ encode i = .transfer b ∧ i.wellFormed = true ∧ i.selectedAt p = true := by
  constructor
  · exact Machine.decode_sound
  · rintro ⟨henc, hwf, hsel⟩
    rw [← henc]
    exact decode_encode hwf hsel

/-- Settles O1, row by row of R92. -/
theorem decodeEncodeRoundTrip : Obligations.DecodeEncodeRoundTrip := fun _ _ => decode_encode

/-- Settles O2: the two boundary events have one operation each, and a byte's operation stands for it. -/
theorem encodeDecodeRoundTrip : Obligations.EncodeDecodeRoundTrip := by
  intro p e i h
  cases e
  case transfer b =>
    obtain ⟨henc, hwf, hsel⟩ := decode_transfer_iff.mp h
    exact ⟨hwf, hsel, henc⟩
  case deselect => cases h; exact ⟨rfl, rfl, rfl⟩
  case create => cases h; exact ⟨rfl, rfl, rfl⟩

/-! ### The selection table -/

/-- R92: the operands of a header row are the byte's own fields. -/
theorem headerByte_iff_fields {d : Direction} {b : Byte} {n : Nat} {r : Bool} :
    headerByte d n r = b ∧ n < 2 ^ Config.sizeBits ↔ headerDirection b = d ∧ n = b.toNat / 2 % 64 ∧ r = b.getLsbD 0 := by
  rw [← headerSize_toNat]
  constructor
  · rintro ⟨hb, hn⟩
    obtain ⟨hdir, hsize, hrsv⟩ := (headerByte_eq_iff hn).mp hb
    exact ⟨hdir, hsize.symm, hrsv.symm⟩
  · rintro ⟨hdir, rfl, rfl⟩
    exact ⟨(headerByte_eq_iff (headerSize b).isLt).mpr ⟨hdir, rfl, rfl⟩, (headerSize b).isLt⟩

theorem Position.N_eq_min (p : Position) : p.N = min p.header.size.toNat 4 := rfl

/-- R38, R92: every event selects an operation in a legal state. -/
theorem exists_decode_event_of_legal {d : Machine.Decoder} (hl : d.legal = true) (e : Event) :
    ∃ i, decode d.position e = some i := by
  cases e
  case transfer b => exact Machine.exists_decode_of_legal hl b
  case deselect => exact ⟨.reset, rfl⟩
  case create => exact ⟨.init, rfl⟩

/-- R92: a byte that comes in a state outside R38 is refused. -/
theorem step_transfer_of_not_legal {s : Machine.State} {b : Byte} {r : Option Machine.Response}
    {rest : List Machine.Input} (hc : s.created = true) (hl : s.decoder.legal = false)
    (hin : s.inputs = .transfer b r :: rest) : Machine.step s = .refused .noOperation := by
  simp [Machine.step, Machine.fetch, hin, Machine.fetchTransfer, hc, hl]

/-- Settles O3: the operation of a row stands for the byte and carries the row's condition, constructor by constructor. -/
theorem selectionTable : Obligations.SelectionTable := by
  refine ⟨fun p b i => ⟨?_, rfl, rfl⟩, fun _ e hl => exists_decode_event_of_legal hl e,
    fun _ _ _ _ hc hl hin => step_transfer_of_not_legal hc hl hin⟩
  rw [decode_transfer_iff, ← p.N_eq_min]
  cases i
  case hdrRd n r =>
    simp only [encode, Event.transfer.injEq, Instr.wellFormed, Instr.selectedAt, decide_eq_true_eq, Instr.hdrRd.injEq,
      reduceCtorEq, and_false, or_false]
    rw [← and_assoc, headerByte_iff_fields, and_comm, and_mask_eq_mask_iff]
  case hdrWr n r =>
    simp only [encode, Event.transfer.injEq, Instr.wellFormed, Instr.selectedAt, decide_eq_true_eq, Instr.hdrWr.injEq,
      reduceCtorEq, and_false, or_false, false_or]
    rw [← and_assoc, headerByte_iff_fields, and_comm, and_mask_eq_zero_iff]
  case addr c =>
    simp only [encode, Instr.wellFormed, Instr.selectedAt, addrCount_two_or_three]
    simp [and_comm, and_assoc]
  case rdataNext c =>
    have hN : p.dataRemaining.toNat < p.N → 0 < p.N := Nat.zero_lt_of_lt
    simp only [encode, Event.transfer.injEq, Instr.wellFormed, Instr.selectedAt, decide_eq_true_eq, Instr.rdataNext.injEq,
      reduceCtorEq, and_false, or_false, false_or]
    tauto
  all_goals simp [encode, Instr.wellFormed, Instr.selectedAt, and_comm, and_assoc, and_left_comm]

/-! ### Headers in the spec's own bytes -/

/-- Settles O6: the fields of a header byte are the ones it was made from, and R85's examples are evaluated. -/
theorem headerEncodingFunction : Obligations.HeaderEncodingFunction := by
  refine ⟨fun d n r hn => ⟨headerByte_toNat d n r hn, ?_, headerReserved_headerByte d n r hn⟩, by decide⟩
  rw [decodeHeader, headerDirection_headerByte d n r hn, headerSize_headerByte d n r hn]

/-- Settles O7, by evaluating the decoder on the written bytes. -/
theorem specWordsDecode : Obligations.SpecWordsDecode := by
  unfold Obligations.SpecWordsDecode
  decide

end Sys2Proof

namespace Sys2Proof.Machine

/-! ### The reserved bit -/

/-- R83: bits 7..1 of a header byte fix its direction and its size. -/
theorem headerFields_eq_of_shiftRight_eq {h h' : Byte} (hbits : h >>> 1 = h' >>> 1) :
    headerDirection h = headerDirection h' ∧ headerSize h = headerSize h' := by
  have hhalf : h.toNat / 2 = h'.toNat / 2 := by
    simpa [Nat.shiftRight_eq_div_pow] using congrArg BitVec.toNat hbits
  refine ⟨?_, BitVec.eq_of_toNat_eq (by rw [headerSize_toNat, headerSize_toNat, hhalf])⟩
  have hread : headerDirection h = .read ↔ headerDirection h' = .read := by
    rw [headerDirection_read, headerDirection_read]; omega
  cases hd : headerDirection h <;> cases hd' : headerDirection h' <;> simp [hd, hd'] at hread ⊢

/-- R101, R102: either header operation stores the byte's direction and size. -/
theorem effect_decodeIdle (s : State) (h : Byte) :
    s.effect (decodeIdle h) = quietEffect s (s.decoder.acceptHeader (headerDirection h) (headerSize h)) := by
  cases hd : headerDirection h <;> simp [decodeIdle, hd, State.effect]

/-- R92: in `Idle` every header byte selects its operation. -/
theorem selects_decodeIdle {s : State} (hl : s.decoder.legal = true) (hst : s.decoder.state = .idle) (h : Byte) :
    s.selects (decodeIdle h) = true :=
  (State.selects_iff ..).mpr ⟨hl, (decode_sound (by simp [decode, hst] : decode s.decoder.position (.transfer h) = _)).2⟩

/-- R101, R102: every header byte runs in `Idle`. -/
theorem exec_decodeIdle {s : State} (hc : s.created = true) (hl : s.decoder.legal = true)
    (hst : s.decoder.state = .idle) (h : Byte) :
    exec (decodeIdle h) s =
      .next (s.complete h (quietEffect s (s.decoder.acceptHeader (headerDirection h) (headerSize h)))) := by
  rw [exec_eq_transfer (decodeIdle_sound h).1, State.transfer_eq_next, effect_decodeIdle]
  exact ⟨hc, selects_decodeIdle hl hst h, rfl⟩

/-- Settles O4: the record after a header byte depends on its direction and size alone, which bit 0 is no part of. -/
theorem reservedHeaderBitIgnored : Obligations.ReservedHeaderBitIgnored := by
  intro s h h' hc hl hst hbits
  obtain ⟨hdir, hsize⟩ := headerFields_eq_of_shiftRight_eq hbits
  refine ⟨_, _, exec_decodeIdle hc hl hst h, exec_decodeIdle hc hl hst h', ?_, rfl, ?_⟩
  · simp [hdir, hsize]
  · cases hd : headerDirection h'
    case read =>
      exact .inl ⟨(headerSize h').toNat, headerReserved h, headerReserved h', by simp [decodeIdle, hdir, hd, hsize]⟩
    case write =>
      exact .inr ⟨(headerSize h').toNat, headerReserved h, headerReserved h', by simp [decodeIdle, hdir, hd, hsize]⟩

end Sys2Proof.Machine
end

section
/-! R55, R90, R91, R100: what a call takes from the collaborator's answer and shows on the request ports, and the step on a boundary event.
O24, O35 and O49 follow. -/

namespace Sys2Proof.Machine

/-! ### The request ports -/

/-- R62: the width of an access an operation requests is a clamped one. -/
theorem width_le_of_effect_request {s : State} {i : Instr} {a : Access} (h : (s.effect i).request = some a) :
    a.width ≤ 4 := by
  have hN : s.decoder.N ≤ 4 := s.decoder.N_le
  cases i
  case wdataLast b =>
    obtain rfl : memWrite s.decoder _ = a := Option.some.inj h
    exact hN
  case rdataFirst b =>
    rw [effect_request_rdataFirst] at h
    obtain rfl : memRead s.decoder = a := Option.some.inj h
    exact hN
  all_goals cases h

/-- R62, R91: an access that a call shows has a width that fits its port. -/
theorem width_le_of_exec {s t : State} {i : Instr} {x : Exchange} {a : Access} (h : exec i s = .next t)
    (htrace : t.trace = .exchange x :: s.trace) (hreq : x.request = some a) : a.width ≤ 4 := by
  obtain ⟨-, -, rfl⟩ | ⟨-, rfl⟩ | ⟨b, -, hb, -⟩ := exec_next_cases i s t h
  · cases htrace
  · cases htrace
  · obtain ⟨-, y, hy, hyreq⟩ := exchange_of_exec hb h
    obtain rfl : x = y := by simpa using htrace.symm.trans hy
    exact width_le_of_effect_request (hyreq.symm.trans hreq)

theorem reqWidth_toNat {a : Access} (h : a.width ≤ 4) : (reqWidth (some a)).map BitVec.toNat = some a.width :=
  congrArg some (toNat_dataCount _ h)

/-- R54, R91: the write vector in the lanes below the width. -/
theorem getElem_reqWData_write (a : Address) (n : Nat) (v : List Byte) (j : Fin 4) :
    (reqWData (some (.write a n v)))[j] = if j.val < n then v[j.val]? else none := by
  simp [reqWData]

/-- Settles O35: the ports carry the request as it is, since its width is at most 4. -/
theorem requestPorts : Obligations.RequestPorts := by
  refine ⟨⟨rfl, rfl, rfl⟩, fun s t i x h htrace => ⟨fun a n hreq => ?_, fun a n v hreq => ?_⟩⟩
  · have hwidth : n ≤ 4 := width_le_of_exec h htrace hreq
    rw [hreq]
    exact ⟨rfl, rfl, reqWidth_toNat hwidth⟩
  · have hwidth : n ≤ 4 := width_le_of_exec h htrace hreq
    rw [hreq]
    exact ⟨rfl, rfl, reqWidth_toNat hwidth, getElem_reqWData_write a n v⟩

/-! ### The collaborator's answer -/

/-- R56: a call uses its answer up, so with the same effect it ends in the same state whatever stood on the port. -/
theorem transfer_of_rsp (s : State) (q q' : Option Response) (i : Instr) (b : Byte) {e e' : Effect}
    (he : s.selects i = true → e = e') :
    State.transfer { s with rsp := q } i b e = State.transfer { s with rsp := q' } i b e' := by
  cases hsel : s.selects i
  · have hsel' (p : Option Response) : State.selects { s with rsp := p } i = false := hsel
    simp [State.transfer, hsel']
  · rw [he hsel]
    rfl

/-- An operation is independent of the answer where its effect is. -/
theorem exec_of_rsp (s : State) (q q' : Option Response) {i : Instr}
    (he : s.selects i = true → State.effect { s with rsp := q } i = State.effect { s with rsp := q' } i) :
    exec i { s with rsp := q } = exec i { s with rsp := q' } := by
  cases henc : encode i with
  | transfer b =>
    rw [exec_eq_transfer henc, exec_eq_transfer henc]
    exact transfer_of_rsp s q q' i b he
  | deselect => cases i <;> cases henc; rfl
  | create => cases i <;> cases henc; rfl

/-- R160: the read buffers the bytes of the answer below N and replies the first. -/
theorem effect_rdataFirst_congr {s : State} {r r' : Response} (b : Byte) (hN : 0 < s.decoder.N) (hfail : r.fail = r'.fail)
    (hdata : ∀ j : Fin 4, j.val < s.decoder.N → r.data[j] = r'.data[j]) :
    State.effect { s with rsp := some r } (.rdataFirst b) = State.effect { s with rsp := some r' } (.rdataFirst b) := by
  have hfill : fillBytes s.decoder.N r.data s.decoder.dataBuffer = fillBytes s.decoder.N r'.data s.decoder.dataBuffer := by
    ext j hj : 1
    rw [getElem_fillBytes _ _ _ _ hj, getElem_fillBytes _ _ _ _ hj]
    split
    · next hlt => exact hdata ⟨j, hj⟩ hlt
    · rfl
  have hfirst (other : Byte) : loadByte 0 other r.data = loadByte 0 other r'.data := by
    rw [loadByte_of_lt _ _ _ (by decide), loadByte_of_lt _ _ _ (by decide)]
    exact hdata 0 hN
  simp only [State.effect, readSuccess, accessEffect, accessStatus, State.response, hfail, hfill, hfirst]
  rfl

/-- Settles O49, since of the answer the two accesses take the failure flag, and a read the bytes below N. -/
theorem unusedAnswerIgnored : Obligations.UnusedAnswerIgnored := by
  refine fun s r r' => ⟨fun b hfail hdata => ?_, fun b hfail => ?_, fun i hread hwrite => ?_⟩ <;>
    apply exec_of_rsp
  · intro hsel
    obtain ⟨-, -, -, -, hN, -⟩ := (selects_iff_decoder_selects ..).mp hsel
    exact effect_rdataFirst_congr b hN hfail hdata
  · intro _
    simp only [State.effect, accessEffect, accessStatus, State.response, hfail]
    rfl
  · intro _
    cases i
    case rdataFirst => exact absurd rfl (hread _)
    case wdataLast => exact absurd rfl (hwrite _)
    all_goals rfl

/-! ### Boundary events -/

/-- Settles O24: the two boundary events are fetched as their operations. -/
theorem stepRunsBoundaryEvents : Obligations.StepRunsBoundaryEvents := by
  refine fun s rest => ⟨fun hin => ?_, fun hin => ?_⟩
  · have hfetch : fetch s = .run .reset (s.take rest none) := by rw [fetch, hin]
    rw [step, hfetch]
    rfl
  · have hfetch : fetch s = .run .init (s.take rest none) := by rw [fetch, hin]
    rw [step, hfetch]
    rfl

end Sys2Proof.Machine
end

section
/-! R88, R94, R95: a transaction on the wire, call by call: what the record and the accesses of the period are after the header and the
address, after the data of a write, and after the data of a read. O44 follows. -/

namespace Sys2Proof.Machine

/-! ### Runs -/

theorem State.run_add {k m : Nat} {s t : State} (h : s.run k = .next t) : s.run (k + m) = t.run m := by
  induction k generalizing s with
  | zero => cases h; rw [Nat.zero_add]
  | succ k ih =>
    rw [Nat.succ_add]
    cases hstep : step s with
    | next u => rw [State.run, hstep] at h ⊢; exact ih h
    | fault f => rw [State.run, hstep] at h; cases h
    | refused r => rw [State.run, hstep] at h; cases h

/-- A created decoder with its record, the accesses of the period and the events still to come. -/
structure State.Stands (s : State) (d : Decoder) (acc : List Access) (ins : List Input) : Prop where
  created : s.created = true
  decoder : s.decoder = d
  accesses : s.accesses = acc
  inputs : s.inputs = ins

/-- After `k` steps the machine stands so. -/
def State.Reaches (s : State) (k : Nat) (d : Decoder) (acc : List Access) (ins : List Input) : Prop :=
  ∃ t, s.run k = .next t ∧ t.Stands d acc ins

section
variable {s t : State} {i : Instr} {b : Byte} {r : Option Response} {rest : List Input} {d d' : Decoder}
  {acc acc' : List Access} {ins ins' : List Input} {k m : Nat}

theorem State.Reaches.of_step (hstep : step s = .next t) (ht : t.Stands d acc ins) : s.Reaches 1 d acc ins :=
  ⟨t, by rw [State.run, hstep]; rfl, ht⟩

theorem State.Reaches.of_run (hrun : s.run k = .next t) (h : t.Reaches m d acc ins) : s.Reaches (k + m) d acc ins := by
  obtain ⟨u, hrun', hu⟩ := h
  exact ⟨u, (State.run_add hrun).trans hrun', hu⟩

theorem State.Reaches.trans (h : s.Reaches k d acc ins) (hnext : ∀ t : State, t.Stands d acc ins → t.Reaches m d' acc' ins') :
    s.Reaches (k + m) d' acc' ins' := by
  obtain ⟨t, hrun, ht⟩ := h
  exact .of_run hrun (hnext t ht)

theorem State.Stands.selects (hs : s.Stands d acc ins) (hl : d.legal = true) (hwf : i.wellFormed = true)
    (hat : d.Selects i) : s.selects i = true := by
  obtain ⟨-, rfl, -, -⟩ := hs
  exact (selects_iff_decoder_selects ..).mpr ⟨hl, hwf, hat⟩

/-! ### One event -/

/-- R92: no two rows overlap. -/
theorem eq_of_selects {j : Instr} (henc : encode i = encode j) (hi : s.selects i = true) (hj : s.selects j = true) :
    i = j := by
  obtain ⟨-, hwfi, hati⟩ := (State.selects_iff ..).mp hi
  obtain ⟨-, hwfj, hatj⟩ := (State.selects_iff ..).mp hj
  exact Option.some.inj ((decode_encode hwfi hati).symm.trans (henc ▸ decode_encode hwfj hatj))

/-- R100: a byte that comes in a legal state completes the call of some selected operation. -/
theorem State.Stands.call (hs : s.Stands d acc (.transfer b r :: rest)) (hl : d.legal = true) :
    ∃ i, encode i = .transfer b ∧ (s.take rest r).selects i = true ∧
      s.Reaches 1 ((s.take rest r).effect i).decoder (acc ++ ((s.take rest r).effect i).request.toList) rest := by
  obtain ⟨hc, rfl, rfl, hin⟩ := hs
  obtain ⟨i, henc, hsel, hstep⟩ := step_transfer hc hl hin
  exact ⟨i, henc, hsel, .of_step hstep ⟨hc, rfl, State.accesses_complete .., rfl⟩⟩

/-- R100: a byte that comes completes the call of the operation selected. -/
theorem State.Stands.call_of_selects (hs : s.Stands d acc (.transfer b r :: rest)) (henc : encode i = .transfer b)
    (hsel : s.selects i = true) :
    s.Reaches 1 ((s.take rest r).effect i).decoder (acc ++ ((s.take rest r).effect i).request.toList) rest := by
  obtain ⟨hl, -⟩ := (State.selects_iff ..).mp hsel
  obtain ⟨j, henc', hsel', hreach⟩ := hs.call (hs.decoder ▸ hl)
  obtain rfl := eq_of_selects (henc'.trans henc.symm) hsel' hsel
  exact hreach

/-- R100: an operation without an access leaves the accesses of the period. -/
theorem State.Stands.quiet_call (hs : s.Stands d acc (.transfer b r :: rest)) (henc : encode i = .transfer b)
    (hsel : s.selects i = true) (he : ∀ u : State, u.decoder = d → u.effect i = quietEffect u d') :
    s.Reaches 1 d' acc rest := by
  have hreach := hs.call_of_selects henc hsel
  rw [he (s.take rest r) hs.decoder] at hreach
  simpa using hreach

/-- R200: a chip deselect ends the period in the reset record. -/
theorem State.Reaches.deselect (h : s.Reaches k d acc (.deselect :: rest)) : s.Reaches (k + 1) Decoder.reset [] rest := by
  refine h.trans fun t ht => ?_
  have hstep : step t = .next ((t.take rest none).boundary .deselected) := by
    rw [step, fetch, ht.inputs]
    exact if_pos ht.created
  exact .of_step hstep ⟨rfl, rfl, rfl, rfl⟩

/-! ### Header and address -/

theorem State.Stands.header (hs : s.Stands d acc (.transfer b r :: rest)) (hl : d.legal = true) (hst : d.state = .idle) :
    s.Reaches 1 (d.acceptHeader (headerDirection b) (headerSize b)) acc rest := by
  obtain ⟨-, rfl, -, -⟩ := id hs
  refine hs.quiet_call (decodeIdle_sound b).1 (selects_decodeIdle hl hst b) fun u hu => ?_
  rw [effect_decodeIdle, hu]

theorem State.Stands.address (hs : s.Stands d acc (.transfer b r :: rest)) (hl : d.legal = true)
    (hat : d.Selects (.addr b)) : s.Reaches 1 (d.acceptAddress b) acc rest :=
  hs.quiet_call rfl (hs.selects hl rfl hat) fun _ hu => by subst hu; rfl

theorem State.Stands.addressLast (hs : s.Stands d acc (.transfer b r :: rest)) (hl : d.legal = true)
    (hat : d.Selects (.addrLast b)) : s.Reaches 1 { d.acceptAddress b with state := .data } acc rest :=
  hs.quiet_call rfl (hs.selects hl rfl hat) fun _ hu => by subst hu; rfl

end

/-- R57, R123: the bits of an address, byte by byte. -/
theorem getLsbD_assembled (a2 a1 a0 : Byte) {j : Nat} (hj : j < 24) :
    (assembled a2 a1 a0).getLsbD j =
      if j < 8 then a0.getLsbD j else if j < 16 then a1.getLsbD (j - 8) else a2.getLsbD (j - 16) := by
  have hj' : j < Config.addrWidth := hj
  have h1 : j - 8 < Config.addrWidth := (Nat.sub_le _ _).trans_lt hj'
  have h2 : j - 16 < Config.addrWidth := (Nat.sub_le _ _).trans_lt hj'
  simp only [assembled, BitVec.getLsbD_or, BitVec.getLsbD_shiftLeft, BitVec.getLsbD_setWidth, hj', h1, h2, decide_true,
    Bool.true_and]
  by_cases h8 : j < 8
  · simp [h8, show j < 16 by omega]
  · by_cases h16 : j < 16
    · simp [h8, h16, BitVec.getLsbD_of_ge a0 j (by omega)]
    · simp [h8, h16, BitVec.getLsbD_of_ge a0 j (by omega), BitVec.getLsbD_of_ge a1 (j - 8) (by omega)]

/-- R57, R123: the three lanes, stored one by one, make up the address. -/
theorem storeLane_eq_assembled (a2 a1 a0 : Byte) (a : Address) :
    storeLane 1 a0 (storeLane 2 a1 (storeLane 3 a2 a)) = assembled a2 a1 a0 := by
  apply BitVec.eq_of_getLsbD_eq
  intro j hj
  have hj' : j < 24 := hj
  rw [getLsbD_storeLane _ _ _ (by decide) _ hj', getLsbD_storeLane _ _ _ (by decide) _ hj',
    getLsbD_storeLane _ _ _ (by decide) _ hj', getLsbD_assembled a2 a1 a0 hj']
  grind

/-- R95: the address bytes of a pseudo-operation stand for its address. -/
theorem assembled_extractLsb' (a : Address) :
    assembled (a.extractLsb' 16 8) (a.extractLsb' 8 8) (a.extractLsb' 0 8) = a := by
  apply BitVec.eq_of_getLsbD_eq
  intro j hj
  have hj' : j < 24 := hj
  rw [getLsbD_assembled _ _ _ hj']
  simp only [BitVec.getLsbD_extractLsb']
  grind

/-- R105, R124: the record when the header `h` and the address `a` have come since the reset record. -/
def Decoder.addressed (h : Byte) (a : Address) : Decoder :=
  { state := .data
    header := decodeHeader h
    addressRemaining := 0
    dataRemaining := BitVec.ofNat Config.dataCountBits (clampN (headerSize h).toNat)
    addressBuffer := a
    dataBuffer := Decoder.reset.dataBuffer }

theorem Decoder.addressed_dataRemaining (h : Byte) (a : Address) :
    (Decoder.addressed h a).dataRemaining.toNat = (Decoder.addressed h a).N := toNat_dataCount _ (clampN_le _)

theorem Decoder.addressed_legal (h : Byte) (a : Address) : (Decoder.addressed h a).legal = true := by
  have hdr := Decoder.addressed_dataRemaining h a
  refine (Decoder.legal_data _ rfl).mpr ⟨rfl, ?_⟩
  rcases Nat.eq_zero_or_pos (Decoder.addressed h a).N with h0 | hpos
  · exact .inl ⟨h0, BitVec.eq_of_toNat_eq (hdr.trans h0)⟩
  · exact .inr ⟨hdr ▸ hpos, hdr.le⟩

section
variable {s : State} {d : Decoder} {acc : List Access} {rest : List Input}

/-- R120, R121: three bytes bring the address and the data phase, without an access. -/
theorem State.Stands.addressBytes {a2 a1 a0 : Byte} {r₂ r₁ r₀ : Option Response}
    (hs : s.Stands d acc (.transfer a2 r₂ :: .transfer a1 r₁ :: .transfer a0 r₀ :: rest)) (hl : d.legal = true)
    (hst : d.state = .address) (har : d.addressRemaining = 3) :
    s.Reaches 3 { d with state := .data, addressRemaining := 0, addressBuffer := assembled a2 a1 a0 } acc rest := by
  have har' : (d.acceptAddress a2).addressRemaining = 2 := by rw [d.acceptAddress_addressRemaining, har]; rfl
  have har'' : ((d.acceptAddress a2).acceptAddress a1).addressRemaining = 1 := by
    rw [Decoder.acceptAddress_addressRemaining, har']; rfl
  have hl' : (d.acceptAddress a2).legal = true := Decoder.acceptAddress_legal a2 hl hst (by rw [har]; decide)
  have hl'' : ((d.acceptAddress a2).acceptAddress a1).legal = true :=
    Decoder.acceptAddress_legal a1 hl' hst (by rw [har']; decide)
  have hend : { ((d.acceptAddress a2).acceptAddress a1).acceptAddress a0 with state := .data } =
      { d with state := .data, addressRemaining := 0, addressBuffer := assembled a2 a1 a0 } := by
    rw [← storeLane_eq_assembled a2 a1 a0 d.addressBuffer]
    simp [Decoder.acceptAddress, har]
  have h1 := hs.address hl ⟨hst, by rw [har]; decide⟩
  have h2 := h1.trans fun t ht => ht.address hl' ⟨hst, by rw [har']; decide⟩
  exact hend ▸ h2.trans fun t ht => ht.addressLast hl'' ⟨hst, har''⟩

/-- R101, R102, R120, R121: the first four bytes of a period bring the record to its data phase, without an access. -/
theorem State.Stands.addressPhase {h a2 a1 a0 : Byte} {r₃ r₂ r₁ r₀ : Option Response}
    (hs : s.Stands Decoder.reset acc
      (.transfer h r₃ :: .transfer a2 r₂ :: .transfer a1 r₁ :: .transfer a0 r₀ :: rest)) :
    s.Reaches 4 (Decoder.addressed h (assembled a2 a1 a0)) acc rest := by
  have h1 := hs.header Decoder.legal_reset rfl
  exact h1.trans fun t ht => ht.addressBytes (Decoder.acceptHeader_legal ..) rfl rfl

/-! ### The data phase -/

/-- R94: each byte comes with its own answer, if any. -/
theorem exists_xfers_cons (b : Byte) (bs : List Byte) {rs : List (Option Response)} {n : Nat} (rest : List Input)
    (hlen : rs.length = n + 1) :
    ∃ r rs', rs'.length = n ∧ xfers (b :: bs) rs ++ rest = .transfer b r :: (xfers bs rs' ++ rest) := by
  obtain ⟨r, rs', rfl⟩ := List.exists_of_length_succ rs hlen
  exact ⟨r, rs', Nat.succ.inj hlen, rfl⟩

/-- R142: a byte stored at the end of those received makes them one more. -/
theorem take_storeByte {k : Nat} {b : Byte} {buf : Buffer} {v : List Byte} (hk : k < 4) (hv : buf.toList.take k = v) :
    (storeByte k b buf).toList.take (k + 1) = v ++ [b] := by
  rw [← hv]
  exact (writeVector_eq (k + 1) b buf (Nat.le_add_left 1 k) hk).symm

/-- R141, R142, R143: the data bytes still to come in a write, after `v`, make the one write of them all. -/
theorem State.Stands.writeBytes {v ds : List Byte} {rs : List (Option Response)}
    (hs : s.Stands d acc (xfers ds rs ++ rest)) (hlen : rs.length = ds.length) (hl : d.legal = true)
    (hst : d.state = .data) (hdir : d.header.direction = .write) (hds : 1 ≤ ds.length)
    (hdr : d.dataRemaining.toNat = ds.length) (hN : d.N = v.length + ds.length)
    (hv : d.dataBuffer.toList.take v.length = v) :
    ∃ d', s.Reaches ds.length d' (acc ++ [.write d.addressBuffer d.N (v ++ ds)]) rest := by
  induction ds generalizing s d v rs with
  | nil => exact absurd hds (by decide)
  | cons b ds ih =>
    obtain ⟨r, rs', hlen', hxfers⟩ := exists_xfers_cons b ds rest (hlen.trans List.length_cons)
    have hN4 : d.N ≤ 4 := d.N_le
    have hpos : 0 < d.N := by rw [hN]; omega
    rw [hxfers] at hs
    cases ds with
    | nil =>
      have hsel := hs.selects (i := .wdataLast b) hl rfl ⟨hst, hdir, hpos, hdr⟩
      have hvec : writeVector d.N b d.dataBuffer = v ++ [b] := by
        rw [writeVector, hN, List.length_singleton, Nat.add_sub_cancel, hv]
      obtain ⟨-, rfl, -, -⟩ := id hs
      rw [← hvec]
      exact ⟨_, hs.call_of_selects (i := .wdataLast b) rfl hsel⟩
    | cons c ds =>
      rw [List.length_cons, List.length_cons] at hdr hN
      have hmore : 2 ≤ d.dataRemaining.toNat := by omega
      have hindex : dataIndex d.N d.dataRemaining.toNat = v.length := by rw [dataIndex]; omega
      have hsel := hs.selects (i := .wdata b) hl rfl ⟨hst, hdir, hpos, hmore⟩
      have h1 : s.Reaches 1 (d.acceptData b) acc (xfers (c :: ds) rs' ++ rest) :=
        hs.quiet_call rfl hsel fun _ hu => by subst hu; rfl
      have hv' : (d.acceptData b).dataBuffer.toList.take (v ++ [b]).length = v ++ [b] := by
        rw [d.acceptData_dataBuffer, hindex, List.length_append]
        exact take_storeByte (by omega) hv
      obtain ⟨t, hrun, ht⟩ := h1
      obtain ⟨d', hreach⟩ := ih ht hlen' (Decoder.acceptData_legal b hl hst hpos.ne' hmore) hst hdir (Nat.le_add_left ..)
        ((toNat_pred _).trans (by rw [List.length_cons]; omega))
        (by rw [d.acceptData_N, List.length_append, List.length_singleton, List.length_cons]; omega) hv'
      rw [List.append_cons v b, List.length_cons, Nat.add_comm]
      exact ⟨d', .of_run hrun hreach⟩

/-- R205: once the record says that the access was made, no byte makes another. -/
theorem State.Stands.noFurtherAccess {bs : List Byte} {rs : List (Option Response)}
    (hs : s.Stands d acc (xfers bs rs ++ rest)) (hlen : rs.length = bs.length) (hl : d.legal = true)
    (hmade : d.accessesMade = 1) : ∃ d', s.Reaches bs.length d' acc rest := by
  induction bs generalizing s d rs with
  | nil => exact ⟨d, s, rfl, hs⟩
  | cons b bs ih =>
    obtain ⟨r, rs', hlen', hxfers⟩ := exists_xfers_cons b bs rest (hlen.trans List.length_cons)
    rw [hxfers] at hs
    obtain ⟨i, henc, hsel, t, hrun, ht⟩ := hs.call hl
    obtain ⟨-, rfl, -, -⟩ := hs
    have hcount := accessesMade_effect henc hsel
    rw [State.take_decoder, hmade] at hcount
    have hle := Decoder.accessesMade_le_one ((s.take (xfers bs rs' ++ rest) r).effect i).decoder
    have hnone : ((s.take (xfers bs rs' ++ rest) r).effect i).request.toList = [] :=
      List.eq_nil_of_length_eq_zero (by omega)
    rw [hnone, List.append_nil] at ht
    obtain ⟨d', hreach⟩ := ih ht hlen' (effect_legal hsel) (by omega)
    rw [List.length_cons, Nat.add_comm]
    exact ⟨d', .of_run hrun hreach⟩

/-- R160, R205: the data bytes of a read make the one read, whatever its answer. -/
theorem State.Stands.readBytes {ds : List Byte} {rs : List (Option Response)}
    (hs : s.Stands d acc (xfers ds rs ++ rest)) (hlen : rs.length = ds.length) (hl : d.legal = true)
    (hst : d.state = .data) (hdir : d.header.direction = .read) (hds : 1 ≤ ds.length)
    (hdr : d.dataRemaining.toNat = d.N) (hN : 0 < d.N) :
    ∃ d', s.Reaches ds.length d' (acc ++ [.read d.addressBuffer d.N]) rest := by
  cases ds with
  | nil => exact absurd hds (by decide)
  | cons b ds =>
    obtain ⟨r, rs', hlen', hxfers⟩ := exists_xfers_cons b ds rest (hlen.trans List.length_cons)
    rw [hxfers] at hs
    have hsel := hs.selects (i := .rdataFirst b) hl rfl ⟨hst, hdir, hN, hdr⟩
    obtain ⟨t, hrun, ht⟩ := hs.call_of_selects rfl hsel
    obtain ⟨-, rfl, -, -⟩ := hs
    have hreq := effect_request_rdataFirst (s.take (xfers ds rs' ++ rest) r) b
    have hmade := accessesMade_effect (s := s.take (xfers ds rs' ++ rest) r) (i := .rdataFirst b) rfl hsel
    rw [State.take_decoder, Decoder.accessesMade_of_full hst hdr, hreq] at hmade
    rw [hreq] at ht
    obtain ⟨d', hreach⟩ := ht.noFurtherAccess hlen' (effect_legal hsel) hmade
    rw [List.length_cons, Nat.add_comm]
    exact ⟨d', .of_run hrun hreach⟩

/-! ### Whole transactions -/

variable {h a2 a1 a0 : Byte} {ds : List Byte} {rs : List (Option Response)}

theorem exists_xfers_frame (hlen : rs.length = 4 + ds.length) :
    ∃ r₃ r₂ r₁ r₀ rs', rs'.length = ds.length ∧ xfers (h :: a2 :: a1 :: a0 :: ds) rs ++ rest =
      .transfer h r₃ :: .transfer a2 r₂ :: .transfer a1 r₁ :: .transfer a0 r₀ :: (xfers ds rs' ++ rest) := by
  rw [Nat.add_comm] at hlen
  obtain ⟨r₃, rs₃, hlen₃, h₃⟩ := exists_xfers_cons h (a2 :: a1 :: a0 :: ds) rest hlen
  obtain ⟨r₂, rs₂, hlen₂, h₂⟩ := exists_xfers_cons a2 (a1 :: a0 :: ds) rest hlen₃
  obtain ⟨r₁, rs₁, hlen₁, h₁⟩ := exists_xfers_cons a1 (a0 :: ds) rest hlen₂
  obtain ⟨r₀, rs₀, hlen₀, h₀⟩ := exists_xfers_cons a0 ds rest hlen₁
  exact ⟨r₃, r₂, r₁, r₀, rs₀, hlen₀, by rw [h₃, h₂, h₁, h₀]⟩

/-- R88, R143: a whole write makes its one access, the write of its data bytes. -/
theorem State.Stands.writeTransaction (hs : s.Stands Decoder.reset acc (xfers (h :: a2 :: a1 :: a0 :: ds) rs ++ rest))
    (hlen : rs.length = 4 + ds.length) (hdir : headerDirection h = .write) (hn : clampN (headerSize h).toNat = ds.length)
    (hds : 1 ≤ ds.length) :
    ∃ d', s.Reaches (4 + ds.length) d' (acc ++ [.write (assembled a2 a1 a0) ds.length ds]) rest := by
  obtain ⟨r₃, r₂, r₁, r₀, rs', hlen', hxfers⟩ := exists_xfers_frame hlen
  rw [hxfers] at hs
  obtain ⟨t, hrun, ht⟩ := hs.addressPhase
  have hN : (Decoder.addressed h (assembled a2 a1 a0)).N = ds.length := hn
  obtain ⟨d', hreach⟩ := ht.writeBytes (v := []) hlen' (Decoder.addressed_legal ..) rfl hdir hds
    ((Decoder.addressed_dataRemaining ..).trans hN) (by rw [hN]; simp) rfl
  rw [hN] at hreach
  exact ⟨d', .of_run hrun hreach⟩

/-- R88, R160: a whole read makes its one access, the read of as many bytes. -/
theorem State.Stands.readTransaction (hs : s.Stands Decoder.reset acc (xfers (h :: a2 :: a1 :: a0 :: ds) rs ++ rest))
    (hlen : rs.length = 4 + ds.length) (hdir : headerDirection h = .read) (hn : clampN (headerSize h).toNat = ds.length)
    (hds : 1 ≤ ds.length) :
    ∃ d', s.Reaches (4 + ds.length) d' (acc ++ [.read (assembled a2 a1 a0) ds.length]) rest := by
  obtain ⟨r₃, r₂, r₁, r₀, rs', hlen', hxfers⟩ := exists_xfers_frame hlen
  rw [hxfers] at hs
  obtain ⟨t, hrun, ht⟩ := hs.addressPhase
  have hN : (Decoder.addressed h (assembled a2 a1 a0)).N = ds.length := hn
  obtain ⟨d', hreach⟩ := ht.readBytes hlen' (Decoder.addressed_legal ..) rfl hdir hds
    (Decoder.addressed_dataRemaining ..) (hds.trans_eq hN.symm)
  rw [hN] at hreach
  exact ⟨d', .of_run hrun hreach⟩

end

/-! ### The pseudo-operations -/

section
variable {s : State} {n : Nat} {a : Address} {ds : List Byte} {rs : List (Option Response)} {rest : List Input}

/-- R95: the bytes of a pseudo-operation, its address written out. -/
theorem frameBytes_eq (d : Direction) (n : Nat) (a : Address) (ds : List Byte) :
    frameBytes d n a ds = headerByte d n false :: a.extractLsb' 16 8 :: a.extractLsb' 8 8 :: a.extractLsb' 0 8 :: ds := by
  rw [frameBytes, addressBytes_eq]
  rfl

/-- R84, R95: a pseudo-operation's own count is the clamped one. -/
theorem clampN_headerSize_headerByte (d : Direction) (r : Bool) (hn : n ≤ 4) :
    clampN (headerSize (headerByte d n r)).toNat = n := by
  obtain ⟨-, hsize, -⟩ := (headerByte_eq_iff (d := d) (r := r) (hn.trans_lt (by decide : 4 < 64))).mp rfl
  rw [hsize]
  exact Nat.min_eq_left hn

/-- R95, R143: WRITE. -/
theorem State.Stands.pseudoWrite (hs : s.Stands Decoder.reset [] (writeProgram n a ds rs ++ rest)) (hpos : 1 ≤ n)
    (hle : n ≤ 4) (hlen : rs.length = 4 + n) (hds : ds.length = n) :
    ∃ d, s.Reaches (4 + n) d [.write a n ds] (.deselect :: rest) := by
  rw [writeProgram, frameBytes_eq, List.append_assoc] at hs
  have hn := (clampN_headerSize_headerByte .write false hle).trans hds.symm
  have hdir := headerDirection_headerByte .write n false (by omega)
  have hreach := hs.writeTransaction (hds ▸ hlen) hdir hn (hds ▸ hpos)
  rwa [assembled_extractLsb', hds] at hreach

/-- R95, R160: READ. -/
theorem State.Stands.pseudoRead (hs : s.Stands Decoder.reset [] (readProgram n a rs ++ rest)) (hpos : 1 ≤ n)
    (hle : n ≤ 4) (hlen : rs.length = 4 + n) : ∃ d, s.Reaches (4 + n) d [.read a n] (.deselect :: rest) := by
  rw [readProgram, frameBytes_eq, List.append_assoc] at hs
  have hds : (List.replicate n (0x00 : Byte)).length = n := List.length_replicate
  have hn := (clampN_headerSize_headerByte .read false hle).trans hds.symm
  have hdir := headerDirection_headerByte .read n false (by omega)
  have hreach := hs.readTransaction (hds.symm ▸ hlen) hdir hn (hds.symm ▸ hpos)
  rwa [assembled_extractLsb', hds] at hreach

/-- R94, R200: what a pseudo-operation has made shows before its `DESEL`, which ends it in the reset record. -/
theorem State.Reaches.ends_in_reset {d : Decoder} {acc : List Access} (h : s.Reaches (4 + n) d acc (.deselect :: rest)) :
    ∃ t u, s.run (4 + n) = .next t ∧ t.accesses = acc ∧ s.run (5 + n) = .next u ∧
      u.decoder = State.reset.decoder ∧ u.inputs = rest := by
  obtain ⟨u, hrun', hu⟩ := h.deselect
  obtain ⟨t, hrun, ht⟩ := h
  rw [Nat.add_right_comm] at hrun'
  exact ⟨t, u, hrun, ht.accesses, hrun', hu.decoder, hu.inputs⟩

end

/-- Settles O44: a pseudo-operation is a transaction of the bytes it writes out, closed by its `DESEL`. -/
theorem pseudoOperationsMakeOneAccess : Obligations.PseudoOperationsMakeOneAccess := by
  intro s n a ds rs rest hc hd hex hpos hle hlen
  have hacc : s.accesses = [] := by rw [State.accesses, hex]; rfl
  refine ⟨fun hds hin => ?_, fun hin => ?_⟩
  · obtain ⟨d, hreach⟩ := State.Stands.pseudoWrite ⟨hc, hd, hacc, hin⟩ hpos hle hlen hds
    exact hreach.ends_in_reset
  · obtain ⟨d, hreach⟩ := State.Stands.pseudoRead ⟨hc, hd, hacc, hin⟩ hpos hle hlen
    exact hreach.ends_in_reset

end Sys2Proof.Machine
end

section
/-! R100 to R107: the fetch of a byte and the step on it, the two header operations in full, the next-state table, the replies of a run, and
what the don't-care draw reaches. O5, O9, O10, O23, O26, O29, O37 and O47 follow. -/

namespace Sys2Proof.Machine

/-! ### Header bytes -/

/-- Settles O5, field by field of the header byte. -/
theorem headerDecode : Obligations.HeaderDecode :=
  fun h => ⟨headerDirection_read h, headerSize_toNat h, congrArg clampN (headerSize_toNat h)⟩

/-- R101, R102: in `Idle` a byte selects the header operation it decodes to, which starts the address phase and shows a don't-care reply. -/
theorem header_starts_address_phase {s : State} {h : Byte} {i : Instr} (hc : s.created = true)
    (hl : s.decoder.legal = true) (hst : s.decoder.state = .idle) (hi : decodeIdle h = i) :
    decode s.decoder.position (.transfer h) = some i ∧
    exec i s = .next (s.afterCall (s.decoder.acceptHeader (headerDirection h) (headerSize h))
      { incoming := h, reply := s.dontCare, status := .ok, request := none }) := by
  subst hi
  exact ⟨by simp [decode, hst], exec_decodeIdle hc hl hst h⟩

/-- Settles O9: a byte with bit 7 set decodes to the read header of its fields. -/
theorem headerReadStartsAddressPhase : Obligations.HeaderReadStartsAddressPhase := by
  intro s h hc hl hst hbit
  have hdir : headerDirection h = .read := if_pos hbit
  have hi : decodeIdle h = .hdrRd (h.extractLsb' 1 6).toNat (h.getLsbD 0) := by rw [decodeIdle, hdir]; rfl
  have hstart := header_starts_address_phase hc hl hst hi
  rwa [hdir] at hstart

/-- Settles O10: a byte with bit 7 clear decodes to the write header of its fields. -/
theorem headerWriteStartsAddressPhase : Obligations.HeaderWriteStartsAddressPhase := by
  intro s h hc hl hst hbit
  have hdir : headerDirection h = .write := if_neg (Bool.eq_false_iff.mp hbit)
  have hi : decodeIdle h = .hdrWr (h.extractLsb' 1 6).toNat (h.getLsbD 0) := by rw [decodeIdle, hdir]; rfl
  have hstart := header_starts_address_phase hc hl hst hi
  rwa [hdir] at hstart

/-! ### The step on a byte -/

/-- R67, R92: a byte that selects an operation is fetched as that operation. -/
theorem fetch_of_decode {s : State} {b : Byte} {r : Option Response} {rest : List Input} {i : Instr}
    (hc : s.created = true) (hl : s.decoder.legal = true) (hin : s.inputs = .transfer b r :: rest)
    (hd : decode s.decoder.position (.transfer b) = some i) : fetch s = .run i (s.take rest r) := by
  simp [fetch, hin, fetchTransfer, hc, hl, hd]

/-- Settles O23: the step runs what it fetches. -/
theorem stepRunsSelectedOperation : Obligations.StepRunsSelectedOperation := by
  intro s b r rest i hc hl hin hd
  rw [step, fetch_of_decode hc hl hin hd]
  rfl

/-- Settles O26: the placed word is a byte waiting in the reset record, where every byte runs. -/
theorem placedWordIsRun : Obligations.PlacedWordIsRun := by
  intro s w i hd
  have hin : (s.withFetchWord 8 w).inputs = .transfer (BitVec.ofNat 8 w) none :: s.inputs := rfl
  obtain ⟨_, -, -, hstep⟩ := step_transfer rfl Decoder.legal_reset hin
  exact ⟨stepRunsSelectedOperation _ _ _ _ i rfl Decoder.legal_reset hin hd, _, hstep⟩

/-! ### The next-state table -/

/-- R92: an operation that gave a next state had its row's condition. -/
theorem decoder_selects_of_exec {i : Instr} {s t : State} (h : exec i s = .next t) : s.decoder.Selects i := by
  obtain ⟨rfl, -⟩ | ⟨rfl, -⟩ | ⟨_, _, -, -, hsel, -⟩ := exec_next_cases i s t h
  · trivial
  · trivial
  · obtain ⟨-, -, hat⟩ := (selects_iff_decoder_selects s i).mp hsel
    exact hat

/-- R160, R161: the count reaches 0 from 1. -/
theorem Decoder.countDown_state_of_data {d : Decoder} (hst : d.state = .data) (hpos : 1 ≤ d.dataRemaining.toNat) :
    d.countDown.state = if d.dataRemaining.toNat = 1 then .done else .data := by
  have hlast : d.dataRemaining.toNat - 1 = 0 ↔ d.dataRemaining.toNat = 1 := by omega
  simp only [d.countDown_state, hst, hlast]

/-- R105, R160: the first byte of a read ends the transaction where the read failed or had one byte. -/
theorem effect_rdataFirst_state {s : State} {b : Byte} (hat : s.decoder.Selects (.rdataFirst b)) :
    (s.effect (.rdataFirst b)).decoder.state =
      if s.response.fail = true ∨ s.decoder.N = 1 then .done else .data := by
  obtain ⟨hst, -, hN, hdr⟩ := hat
  cases hf : s.response.fail
  · have hstate : (readSuccess s).decoder.state = if s.decoder.dataRemaining.toNat = 1 then .done else .data :=
      Decoder.countDown_state_of_data hst (hdr ▸ hN)
    simpa [State.effect, hf, hdr] using hstate
  · simp [State.effect, hf]

/-- Settles O29: the condition is the one R92 selected by, the target is the effect's, operation by operation. -/
theorem nextStateTable : Obligations.NextStateTable := by
  intro s t i h
  have hat := decoder_selects_of_exec h
  rw [decoder_of_exec h]
  cases i
  case hdrRd => exact ⟨hat, rfl⟩
  case hdrWr => exact ⟨hat, rfl⟩
  case addr =>
    obtain ⟨hst, hcount⟩ := hat
    exact ⟨hst, (addrCount_two_or_three _).mp hcount, hst⟩
  case addrLast =>
    obtain ⟨hst, hlast⟩ := hat
    exact ⟨hst, hlast, rfl⟩
  case wdata =>
    obtain ⟨hst, hdir, -, hdr⟩ := hat
    exact ⟨hst, hdir, hdr, hst⟩
  case wdataLast =>
    obtain ⟨hst, hdir, -, hdr⟩ := hat
    exact ⟨hst, hdir, hdr, rfl⟩
  case rdataFirst =>
    have hstate := effect_rdataFirst_state hat
    obtain ⟨hst, hdir, hN, hdr⟩ := hat
    exact ⟨hst, hdir, hdr, hN, hstate⟩
  case rdataNext =>
    obtain ⟨hst, hdir, -, hpos, hlt⟩ := hat
    refine ⟨hst, hdir, hpos, hlt, ?_⟩
    simp only [dataCount_eq_one]
    exact Decoder.countDown_state_of_data hst hpos
  case zdata =>
    obtain ⟨hst, hN⟩ := hat
    exact ⟨hst, hN, rfl⟩
  case drain => exact ⟨hat, hat⟩
  case conf => exact ⟨hat, hat⟩
  case reset => rfl
  case init => rfl

/-! ### Replies and bytes -/

@[simp] theorem repliesIn_exchange (x : Exchange) (tr : List TraceEntry) :
    repliesIn (.exchange x :: tr) = repliesIn tr + 1 := by simp [repliesIn]
@[simp] theorem repliesIn_deselected (tr : List TraceEntry) : repliesIn (.deselected :: tr) = repliesIn tr := by
  simp [repliesIn]
@[simp] theorem repliesIn_created (tr : List TraceEntry) : repliesIn (.created :: tr) = repliesIn tr := by
  simp [repliesIn]

/-- R200: a step on `reset()` of a created decoder. -/
theorem step_deselect {s : State} {rest : List Input} (hc : s.created = true) (hin : s.inputs = .deselect :: rest) :
    step s = .next ((s.take rest none).boundary .deselected) := by
  rw [step, fetch, hin]
  exact if_pos hc

/-- R67, R103: a step takes one event and shows one reply exactly where that event is a byte. -/
theorem step_replies {s t : State} (h : step s = .next t) :
    repliesIn t.trace = repliesIn s.trace + (s.inputs.take 1).countP Input.isTransfer ∧ t.inputs = s.inputs.drop 1 := by
  obtain ⟨hin, rfl⟩ | ⟨rest, hin, -, rfl⟩ | ⟨rest, hin, rfl⟩ | ⟨b, r, rest, i, hin, -, -, hd, hexec⟩ :=
    step_next_cases s t h
  · simp [hin]
  · simp [hin, Input.isTransfer]
  · simp [hin, Input.isTransfer]
  · obtain ⟨henc, -⟩ := decode_sound hd
    rw [exec_eq_transfer henc, State.transfer_eq_next] at hexec
    obtain ⟨-, -, rfl⟩ := hexec
    simp [hin, Input.isTransfer]

/-- A run of `k + 1` steps is a step and a run of `k`. -/
theorem State.run_succ_eq_next {k : Nat} {s t : State} :
    s.run (k + 1) = .next t ↔ ∃ u, step s = .next u ∧ u.run k = .next t := by
  rw [State.run]
  cases step s <;> simp

/-- R103: over any run the replies grow by the bytes taken. -/
theorem run_replies {k : Nat} {s t : State} (h : s.run k = .next t) :
    repliesIn t.trace = repliesIn s.trace + (s.inputs.take k).countP Input.isTransfer ∧ t.inputs = s.inputs.drop k := by
  induction k generalizing s with
  | zero =>
    cases h
    simp
  | succ k ih =>
    obtain ⟨u, hstep, hrun⟩ := State.run_succ_eq_next.mp h
    obtain ⟨hone, hdrop⟩ := step_replies hstep
    obtain ⟨hmore, hinputs⟩ := ih hrun
    refine ⟨?_, by rw [hinputs, hdrop, List.drop_drop, Nat.add_comm]⟩
    rw [hmore, hone, hdrop, Nat.add_comm k 1, List.take_add, List.countP_append, Nat.add_assoc]

/-- Settles O37: a byte completes one call, `reset()` none, and a run is counted step by step. -/
theorem duplexBalance : Obligations.DuplexBalance := by
  refine ⟨fun s b r rest hc hl hin => ?_, fun s rest hc hin => ?_, fun k s t h => run_replies h⟩
  · obtain ⟨i, -, -, hstep⟩ := step_transfer hc hl hin
    exact ⟨_, _, hstep, State.complete_trace .., rfl⟩
  · exact ⟨_, step_deselect hc hin, rfl⟩

/-! ### The don't-care draw -/

/-- R55: a stated answer is the answer whatever the draw. -/
theorem response_of_draws {s : State} {r : Response} (hr : s.rsp = some r) (n : Nat) :
    State.response { s with draws := n } = r := by
  simp [State.response, hr]

/-- R107: with the answer stated, the draw reaches no part of an effect but its reply. -/
theorem effect_of_draws {s : State} {r : Response} (hr : s.rsp = some r) (n : Nat) (i : Instr) :
    (State.effect { s with draws := n } i).decoder = (s.effect i).decoder ∧
      (State.effect { s with draws := n } i).status = (s.effect i).status ∧
      (State.effect { s with draws := n } i).request = (s.effect i).request := by
  have hresp : State.response { s with draws := n } = s.response :=
    (response_of_draws hr n).trans (response_of_draws hr s.draws).symm
  cases i
  case wdataLast => simp [State.effect, accessEffect, hresp]
  case rdataFirst => cases hf : s.response.fail <;> simp [State.effect, readSuccess, accessEffect, hresp, hf]
  all_goals exact ⟨rfl, rfl, rfl⟩

/-- R160, R161: the reply of a read data byte comes from the answer or the buffer, in range, so the draw does not reach it. -/
theorem effect_reply_of_draws {s : State} {r : Response} (hr : s.rsp = some r) (n : Nat) {i : Instr}
    (hat : s.decoder.Selects i) (hi : (∃ b, i = .rdataNext b) ∨ (∃ b, i = .rdataFirst b) ∧ r.fail = false) :
    (State.effect { s with draws := n } i).reply = (s.effect i).reply := by
  obtain ⟨b, rfl⟩ | ⟨⟨b, rfl⟩, hf⟩ := hi
  · obtain ⟨-, -, -, hpos, -⟩ := hat
    have hN : s.decoder.N ≤ 4 := s.decoder.N_le
    have hindex : dataIndex s.decoder.N s.decoder.dataRemaining.toNat < 4 := by rw [dataIndex]; omega
    exact (loadByte_of_lt _ _ _ hindex).trans (loadByte_of_lt _ _ _ hindex).symm
  · have hread (m : Nat) : (State.effect { s with draws := m } (.rdataFirst b)).reply = r.data[0] := by
      simp [State.effect, readSuccess, response_of_draws hr, hf, loadByte_of_lt]
    exact (hread n).trans (hread s.draws).symm

/-- Settles O47: the guard and the effect but for its reply are those of the other draw. -/
theorem dontCareReachesOnlyReplies : Obligations.DontCareReachesOnlyReplies := by
  intro s t i n r hr h
  have hat := decoder_selects_of_exec h
  obtain ⟨rfl, hc, rfl⟩ | ⟨rfl, rfl⟩ | ⟨b, -, hb, -⟩ := exec_next_cases i s t h
  · exact ⟨State.boundary { s with draws := n } .deselected, if_pos hc, rfl, fun x hx => by cases hx⟩
  · exact ⟨State.boundary { s with draws := n } .created, rfl, rfl, fun x hx => by cases hx⟩
  · rw [exec_eq_transfer hb, State.transfer_eq_next] at h
    obtain ⟨hc, hsel, rfl⟩ := h
    obtain ⟨hdecoder, hstatus, hrequest⟩ := effect_of_draws hr n i
    refine ⟨State.complete { s with draws := n } b (State.effect { s with draws := n } i), ?_, hdecoder, fun x hx => ?_⟩
    · rw [exec_eq_transfer hb, State.transfer_eq_next]
      exact ⟨hc, hsel, rfl⟩
    · cases hx
      exact ⟨_, State.complete_trace .., rfl, hstatus, hrequest, effect_reply_of_draws hr n hat⟩

end Sys2Proof.Machine
end

section
/-! R120 to R124, and the record against the wire: what an address byte does, that the lanes filled are the value of the bytes received, and
that every operation keeps the record what the bytes of the period say. O11, O12 and O39 follow. -/

namespace Sys2Proof.Machine

/-! ### The address operations -/

/-- R92, R100: where an operation's row holds, its byte selects it and its call is completed. -/
theorem decode_and_exec_of_selects {s : State} {i : Instr} {b : Byte} (hc : s.created = true) (hl : s.decoder.legal = true)
    (henc : encode i = .transfer b) (hwf : i.wellFormed = true) (hat : s.decoder.Selects i) :
    decode s.decoder.position (.transfer b) = some i ∧ exec i s = .next (s.complete b (s.effect i)) := by
  refine ⟨decode_transfer_iff.mpr ⟨henc, hwf, (selectedAt_position_iff ..).mpr hat⟩, ?_⟩
  rw [exec_eq_transfer henc, State.transfer_eq_next]
  exact ⟨hc, (selects_iff_decoder_selects ..).mpr ⟨hl, hwf, hat⟩, rfl⟩

/-- R121, R123: the last lane is bits 7..0. -/
theorem storeLane_one (b : Byte) (a : Address) : storeLane 1 b a = a &&& 0xFFFF00 ||| b.setWidth 24 := by
  have hmask : ~~~((0xFF : Address) <<< 0) = 0xFFFF00 := by decide
  rw [storeLane, if_pos (by decide), hmask, BitVec.shiftLeft_zero]
  rfl

/-- Settles O11: the row's condition selects ADDR, whose byte goes to the lane of the count. -/
theorem addressByteFillsItsLane : Obligations.AddressByteFillsItsLane := by
  intro s b hc hl hst hcount
  obtain ⟨hmin, hmax⟩ := (addrCount_two_or_three s.decoder.addressRemaining).mpr hcount
  obtain ⟨hdec, hexec⟩ := decode_and_exec_of_selects hc hl (i := .addr b) rfl rfl ⟨hst, hmin, hmax⟩
  refine ⟨hdec, storeLane s.decoder.addressRemaining.toNat b s.decoder.addressBuffer,
    getLsbD_storeLane _ _ _ ⟨by omega, hmax⟩, ?_⟩
  rw [hexec, ← addrCount_pred _ (by omega)]
  rfl

/-- Settles O12: the row's condition selects ADDR_LAST, whose byte goes to the last lane. -/
theorem lastAddressByteEntersData : Obligations.LastAddressByteEntersData := by
  intro s b hc hl hst hlast
  obtain ⟨hdec, hexec⟩ := decode_and_exec_of_selects hc hl (i := .addrLast b) rfl rfl ⟨hst, hlast⟩
  refine ⟨hdec, ?_⟩
  have hrecord : { s.decoder.acceptAddress b with state := .data } =
      { s.decoder with
        addressBuffer := s.decoder.addressBuffer &&& 0xFFFF00 ||| b.setWidth 24, addressRemaining := 0, state := .data } := by
    rw [← storeLane_one, Decoder.acceptAddress, hlast]
    rfl
  rw [hexec, ← hrecord]
  rfl

/-! ### The address as a number -/

theorem beValue_append_singleton (v : List Byte) (b : Byte) : beValue (v ++ [b]) = beValue v * 256 + b.toNat := by
  simp [beValue]

/-- R123: the lane rule holds past the address's width too, where no bit is set. -/
theorem getLsbD_storeLane_of_any {k : Nat} (b : Byte) (a : Address) (hk : 1 ≤ k ∧ k ≤ 3) (j : Nat) :
    (storeLane k b a).getLsbD j =
      if 8 * k - 8 ≤ j ∧ j < 8 * k then b.getLsbD (j - (8 * k - 8)) else a.getLsbD j := by
  by_cases hj : j < 24
  · exact getLsbD_storeLane k b a hk j hj
  · rw [if_neg (by omega), BitVec.getLsbD_of_ge _ _ (not_lt.mp hj), BitVec.getLsbD_of_ge _ _ (not_lt.mp hj)]

/-- R123: where the bits from 8k-1 down are still clear, the byte becomes the next digit in base 256. -/
theorem toNat_storeLane {k v : Nat} {b : Byte} {a : Address} (hk : 1 ≤ k ∧ k ≤ 3) (ha : a.toNat = v * 256 ^ k) :
    (storeLane k b a).toNat = (v * 256 + b.toNat) * 256 ^ (k - 1) := by
  have hpow (m : Nat) : 256 ^ m = 2 ^ (8 * m) := (pow_mul 2 8 m).symm
  have hold (j : Nat) : a.getLsbD j = (decide (8 * k ≤ j) && v.testBit (j - 8 * k)) := by
    rw [BitVec.getLsbD, ha, hpow, Nat.testBit_mul_two_pow]
  refine Nat.eq_of_testBit_eq fun j => ?_
  rw [hpow, Nat.testBit_mul_two_pow, mul_comm v, show 256 = 2 ^ 8 from rfl, Nat.testBit_two_pow_mul_add _ b.isLt]
  change (storeLane k b a).getLsbD j = _
  rw [getLsbD_storeLane_of_any b a hk, hold, Nat.mul_sub_one]
  by_cases hlow : j < 8 * k - 8
  · simp [show ¬ 8 * k - 8 ≤ j by omega, show ¬ 8 * k ≤ j by omega]
  · by_cases hin : j < 8 * k
    · rw [if_pos ⟨by omega, hin⟩, if_pos (by omega)]
      simp [BitVec.getLsbD, show 8 * k - 8 ≤ j by omega]
    · rw [if_neg (by omega), if_neg (by omega), show j - (8 * k - 8) - 8 = j - 8 * k by omega]
      simp [show 8 * k - 8 ≤ j by omega, show 8 * k ≤ j by omega]

/-! ### The record against the wire: the rows of the agreement -/

theorem Decoder.agrees_idle (d : Decoder) {bytes : List Byte} {acc : List Access} (hst : d.state = .idle) :
    d.Agrees bytes acc ↔ d = Decoder.reset ∧ bytes = [] ∧ acc = [] := by
  simp [Decoder.Agrees, hst]

theorem Decoder.agrees_address (d : Decoder) {bytes : List Byte} {acc : List Access} (hst : d.state = .address) :
    d.Agrees bytes acc ↔ ∃ h as, bytes = h :: as ∧ d.header = decodeHeader h ∧
      as.length + d.addressRemaining.toNat = Config.addrBytes ∧
      d.addressBuffer.toNat = beValue as * 256 ^ d.addressRemaining.toNat ∧ acc = [] := by
  simp [Decoder.Agrees, hst]

/-- R124: past the address phase, header and address are those received. -/
theorem Decoder.agrees_past_address (d : Decoder) {bytes : List Byte} {acc : List Access}
    (hst : d.state = .data ∨ d.state = .done ∨ d.state = .confused) :
    d.Agrees bytes acc ↔ ∃ h a2 a1 a0 ds, bytes = h :: a2 :: a1 :: a0 :: ds ∧ d.header = decodeHeader h ∧
      d.addressBuffer = assembled a2 a1 a0 ∧ d.AgreesData ds acc := by
  rcases hst with hst | hst | hst <;> simp [Decoder.Agrees, hst]

section
variable (d : Decoder) {ds : List Byte} {acc : List Access}

theorem Decoder.agreesData_data_write (hst : d.state = .data) (hdir : d.header.direction = .write) :
    d.AgreesData ds acc ↔
      ds.length + d.dataRemaining.toNat = d.N ∧ d.dataBuffer.toList.take ds.length = ds ∧ acc = [] := by
  simp [Decoder.AgreesData, hst, hdir]

theorem Decoder.agreesData_data_read (hst : d.state = .data) (hdir : d.header.direction = .read) :
    d.AgreesData ds acc ↔
      ds.length + d.dataRemaining.toNat = d.N ∧ acc = if ds = [] then [] else [.read d.addressBuffer d.N] := by
  simp [Decoder.AgreesData, hst, hdir]

theorem Decoder.agreesData_done_write (hst : d.state = .done) (hdir : d.header.direction = .write) :
    d.AgreesData ds acc ↔ 1 ≤ d.N ∧ d.N ≤ ds.length ∧ d.dataBuffer.toList.take d.N = ds.take d.N ∧
      acc = [.write d.addressBuffer d.N (ds.take d.N)] := by
  simp [Decoder.AgreesData, hst, hdir]

theorem Decoder.agreesData_done_read (hst : d.state = .done) (hdir : d.header.direction = .read) :
    d.AgreesData ds acc ↔ 1 ≤ d.N ∧ ds ≠ [] ∧ acc = [.read d.addressBuffer d.N] := by
  simp [Decoder.AgreesData, hst, hdir]

theorem Decoder.agreesData_confused (hst : d.state = .confused) :
    d.AgreesData ds acc ↔ d.N = 0 ∧ ds ≠ [] ∧ acc = [] := by
  simp [Decoder.AgreesData, hst]

/-- R105: the agreement as the data phase begins, whatever the direction. -/
theorem Decoder.agreesData_start (hst : d.state = .data) (hdr : d.dataRemaining.toNat = d.N) : d.AgreesData [] [] := by
  have hlen : ([] : List Byte).length + d.dataRemaining.toNat = d.N := (Nat.zero_add _).trans hdr
  cases hdir : d.header.direction
  case write => exact (d.agreesData_data_write hst hdir).mpr ⟨hlen, rfl, rfl⟩
  case read => exact (d.agreesData_data_read hst hdir).mpr ⟨hlen, rfl⟩

end

section
variable {d d' : Decoder} {ds : List Byte} {acc acc' : List Access}

/-- The agreement on data says that the address phase is past. -/
theorem Decoder.AgreesData.state (h : d.AgreesData ds acc) :
    d.state = .data ∨ d.state = .done ∨ d.state = .confused := by
  cases hst : d.state <;> simp [Decoder.AgreesData, hst] at h ⊢

/-- R105, R205: in `Data`, with all N bytes to come, no data byte came and no access was made. -/
theorem Decoder.AgreesData.none_yet (h : d.AgreesData ds acc) (hst : d.state = .data)
    (hfull : d.N ≤ d.dataRemaining.toNat) : ds = [] ∧ acc = [] := by
  cases hdir : d.header.direction
  case write =>
    obtain ⟨hlen, -, hacc⟩ := (d.agreesData_data_write hst hdir).mp h
    exact ⟨List.eq_nil_of_length_eq_zero (by omega), hacc⟩
  case read =>
    obtain ⟨hlen, hacc⟩ := (d.agreesData_data_read hst hdir).mp h
    have hds : ds = [] := List.eq_nil_of_length_eq_zero (by omega)
    exact ⟨hds, hacc.trans (if_pos hds)⟩

/-- R124: a byte past the address phase that keeps header and address has to keep the agreement on data only. -/
theorem Decoder.Agrees.append_data {bytes : List Byte} {b : Byte} (h : d.Agrees bytes acc)
    (hst : d.state = .data ∨ d.state = .done ∨ d.state = .confused) (hheader : d'.header = d.header)
    (haddr : d'.addressBuffer = d.addressBuffer)
    (hdata : ∀ ds, d.AgreesData ds acc → d'.AgreesData (ds ++ [b]) acc') : d'.Agrees (bytes ++ [b]) acc' := by
  obtain ⟨head, a2, a1, a0, ds, rfl, hhead, ha, hds⟩ := (d.agrees_past_address hst).mp h
  have hds' := hdata ds hds
  exact (d'.agrees_past_address hds'.state).mpr
    ⟨head, a2, a1, a0, ds ++ [b], rfl, hheader.trans hhead, haddr.trans ha, hds'⟩

end

/-! ### The record against the wire: what each operation keeps -/

section
variable {d : Decoder} {bytes ds : List Byte} {acc : List Access} {b : Byte}

/-- R101, R102, R109: a header byte is the first byte of the period. -/
theorem Decoder.Agrees.acceptHeader {dir : Direction} {size : BitVec Config.sizeBits} (h : d.Agrees bytes acc)
    (hst : d.state = .idle) (hb : decodeHeader b = ⟨dir, size⟩) : (d.acceptHeader dir size).Agrees (bytes ++ [b]) acc := by
  obtain ⟨rfl, rfl, rfl⟩ := (d.agrees_idle hst).mp h
  exact (Decoder.agrees_address _ rfl).mpr ⟨b, [], rfl, hb.symm, rfl, (Nat.zero_mul _).symm, rfl⟩

/-- R123: an address byte extends the address bytes received by one and the address by a digit. -/
theorem Decoder.Agrees.address_append (h : d.Agrees bytes acc) (hst : d.state = .address)
    (hcount : 1 ≤ d.addressRemaining.toNat) :
    ∃ head as, bytes ++ [b] = head :: as ∧ d.header = decodeHeader head ∧
      as.length + (d.acceptAddress b).addressRemaining.toNat = Config.addrBytes ∧
      (d.acceptAddress b).addressBuffer.toNat = beValue as * 256 ^ (d.acceptAddress b).addressRemaining.toNat ∧
      acc = [] := by
  obtain ⟨head, as, rfl, hhead, hlen, hval, rfl⟩ := (d.agrees_address hst).mp h
  have hpred : (d.acceptAddress b).addressRemaining.toNat = d.addressRemaining.toNat - 1 := toNat_pred _
  have hk : 1 ≤ d.addressRemaining.toNat ∧ d.addressRemaining.toNat ≤ 3 := ⟨hcount, (Nat.le_add_left _ as.length).trans_eq hlen⟩
  refine ⟨head, as ++ [b], rfl, hhead, ?_, ?_, rfl⟩
  · rw [hpred, List.length_append, List.length_singleton]; omega
  · rw [hpred, d.acceptAddress_addressBuffer, toNat_storeLane hk hval, beValue_append_singleton]

/-- R120: the address phase goes on. -/
theorem Decoder.Agrees.acceptAddress (h : d.Agrees bytes acc) (hst : d.state = .address)
    (hcount : 1 ≤ d.addressRemaining.toNat) : (d.acceptAddress b).Agrees (bytes ++ [b]) acc :=
  ((d.acceptAddress b).agrees_address hst).mpr (h.address_append hst hcount)

/-- R121, R124: after the third address byte the address is the assembled one, and the data phase begins without an access. -/
theorem Decoder.Agrees.acceptAddress_data (h : d.Agrees bytes acc) (hl : d.legal = true) (hst : d.state = .address)
    (hlast : d.addressRemaining = 1) : { d.acceptAddress b with state := .data }.Agrees (bytes ++ [b]) acc := by
  obtain ⟨head, as, hbytes, hhead, hlen, hval, rfl⟩ := h.address_append (b := b) hst (by rw [hlast]; decide)
  obtain ⟨-, -, hdr⟩ := (d.legal_address hst).mp hl
  have hzero : (d.acceptAddress b).addressRemaining.toNat = 0 := by rw [d.acceptAddress_addressRemaining, hlast]; rfl
  rw [hzero] at hlen hval
  obtain ⟨a2, a1, a0, rfl⟩ := List.length_eq_three.mp hlen
  have haddr : (d.acceptAddress b).addressBuffer = assembled a2 a1 a0 :=
    BitVec.eq_of_toNat_eq (by rw [hval, assembled_toNat, pow_zero, mul_one])
  exact (Decoder.agrees_past_address _ (.inl rfl)).mpr
    ⟨head, a2, a1, a0, [], hbytes, hhead, haddr, Decoder.agreesData_start _ rfl hdr⟩

/-- R140, R142: a data byte of a write stands in the buffer after those received. -/
theorem Decoder.AgreesData.acceptData (h : d.AgreesData ds acc) (hst : d.state = .data)
    (hdir : d.header.direction = .write) (hpos : 1 ≤ d.dataRemaining.toNat) :
    (d.acceptData b).AgreesData (ds ++ [b]) acc := by
  obtain ⟨hlen, htake, hacc⟩ := (d.agreesData_data_write hst hdir).mp h
  have hN : d.N ≤ 4 := d.N_le
  have hpred : (d.acceptData b).dataRemaining.toNat = d.dataRemaining.toNat - 1 := toNat_pred _
  have hindex : dataIndex d.N d.dataRemaining.toNat = ds.length := by rw [dataIndex]; omega
  refine ((d.acceptData b).agreesData_data_write hst hdir).mpr ⟨?_, ?_, hacc⟩
  · rw [hpred, d.acceptData_N, List.length_append, List.length_singleton]; omega
  · rw [d.acceptData_dataBuffer, hindex, List.length_append]
    exact take_storeByte (by omega) htake

/-- R141, R143: the last data byte of a write makes the one write, of the bytes received. -/
theorem Decoder.AgreesData.finish_write (h : d.AgreesData ds acc) (hst : d.state = .data)
    (hdir : d.header.direction = .write) (hlast : d.dataRemaining.toNat = 1) :
    (d.acceptData b).finish.AgreesData (ds ++ [b]) (acc ++ [memWrite d (writeVector d.N b d.dataBuffer)]) := by
  obtain ⟨hlen, htake, rfl⟩ := (d.agreesData_data_write hst hdir).mp h
  obtain ⟨-, hbuffer, -⟩ := ((d.acceptData b).agreesData_data_write hst hdir).mp (h.acceptData (b := b) hst hdir hlast.ge)
  have hN : (ds ++ [b]).length = d.N := by rw [List.length_append, List.length_singleton]; omega
  have hvec : writeVector d.N b d.dataBuffer = ds ++ [b] := by
    rw [writeVector, show d.N - 1 = ds.length by omega, htake]
  have hall : (ds ++ [b]).take d.N = ds ++ [b] := List.take_of_length_le hN.le
  have hwrite : memWrite d (ds ++ [b]) = .write d.addressBuffer d.N ((ds ++ [b]).take d.N) := by rw [hall]; rfl
  rw [hN] at hbuffer
  refine ((d.acceptData b).finish.agreesData_done_write rfl hdir).mpr ⟨?_, hN.ge, hbuffer.trans hall.symm, ?_⟩
  · exact hlen ▸ hlast ▸ Nat.le_add_left ..
  · rw [hvec, hwrite]; rfl

/-- R160: a failed read was made all the same, with the first data byte. -/
theorem Decoder.AgreesData.finish_read (h : d.AgreesData ds acc) (hst : d.state = .data)
    (hdir : d.header.direction = .read) (hN : 0 < d.N) (hfirst : d.dataRemaining.toNat = d.N) :
    d.finish.AgreesData (ds ++ [b]) (acc ++ [memRead d]) := by
  obtain ⟨rfl, rfl⟩ := h.none_yet hst hfirst.ge
  exact (d.finish.agreesData_done_read rfl hdir).mpr ⟨hN, by simp, rfl⟩

/-- R160, R161: with a byte of a read replied, the one access is the read. -/
theorem Decoder.agreesData_countDown (hst : d.state = .data) (hdir : d.header.direction = .read)
    (hpos : 1 ≤ d.dataRemaining.toNat) (hlen : ds.length + d.dataRemaining.toNat = d.N) :
    d.countDown.AgreesData (ds ++ [b]) [memRead d] := by
  have hpred : d.countDown.dataRemaining.toNat = d.dataRemaining.toNat - 1 := toNat_pred _
  have hstate := Decoder.countDown_state_of_data hst hpos
  by_cases hlast : d.dataRemaining.toNat = 1
  · rw [if_pos hlast] at hstate
    exact (d.countDown.agreesData_done_read hstate hdir).mpr ⟨hlen ▸ hlast ▸ Nat.le_add_left .., by simp, rfl⟩
  · rw [if_neg hlast] at hstate
    refine (d.countDown.agreesData_data_read hstate hdir).mpr ⟨?_, (if_neg (by simp)).symm⟩
    rw [hpred, d.countDown_N, List.length_append, List.length_singleton]; omega

/-- R160: a read that succeeds, with the first data byte, whatever it buffers. -/
theorem Decoder.AgreesData.read_first (h : d.AgreesData ds acc) (hst : d.state = .data)
    (hdir : d.header.direction = .read) (hN : 0 < d.N) (hfirst : d.dataRemaining.toNat = d.N) (buf : Buffer) :
    { d with dataBuffer := buf }.countDown.AgreesData (ds ++ [b]) (acc ++ [memRead d]) := by
  obtain ⟨rfl, rfl⟩ := h.none_yet hst hfirst.ge
  exact Decoder.agreesData_countDown (d := { d with dataBuffer := buf }) hst hdir (hfirst ▸ hN)
    ((Nat.zero_add _).trans hfirst)

/-- R161: a later byte of a read makes no access of its own. -/
theorem Decoder.AgreesData.read_next (h : d.AgreesData ds acc) (hst : d.state = .data)
    (hdir : d.header.direction = .read) (hpos : 1 ≤ d.dataRemaining.toNat) (hlt : d.dataRemaining.toNat < d.N) :
    d.countDown.AgreesData (ds ++ [b]) acc := by
  obtain ⟨hlen, hacc⟩ := (d.agreesData_data_read hst hdir).mp h
  have hds : ds ≠ [] := List.ne_nil_of_length_pos (by omega)
  rw [hacc, if_neg hds]
  exact Decoder.agreesData_countDown hst hdir hpos hlen

/-- R180: with N = 0 the first data byte confuses, no access made. -/
theorem Decoder.AgreesData.confuse (h : d.AgreesData ds acc) (hst : d.state = .data) (hN : d.N = 0) :
    { d with state := .confused }.AgreesData (ds ++ [b]) acc := by
  obtain ⟨rfl, rfl⟩ := h.none_yet hst (hN.trans_le (Nat.zero_le _))
  exact (Decoder.agreesData_confused _ rfl).mpr ⟨hN, by simp, rfl⟩

/-- R183: what the data bytes up to N say of the record in `Done`, later ones do not change. -/
theorem Decoder.AgreesData.drain (h : d.AgreesData ds acc) (hst : d.state = .done) : d.AgreesData (ds ++ [b]) acc := by
  cases hdir : d.header.direction
  case write =>
    obtain ⟨hpos, hle, hbuffer, hacc⟩ := (d.agreesData_done_write hst hdir).mp h
    refine (d.agreesData_done_write hst hdir).mpr ⟨hpos, ?_, ?_⟩
    · rw [List.length_append]; omega
    · rw [List.take_append_of_le_length hle]
      exact ⟨hbuffer, hacc⟩
  case read =>
    obtain ⟨hpos, -, hacc⟩ := (d.agreesData_done_read hst hdir).mp h
    exact (d.agreesData_done_read hst hdir).mpr ⟨hpos, by simp, hacc⟩

/-- R186: in `Confused` a later byte changes nothing. -/
theorem Decoder.AgreesData.conf (h : d.AgreesData ds acc) (hst : d.state = .confused) :
    d.AgreesData (ds ++ [b]) acc := by
  obtain ⟨hN, -, hacc⟩ := (d.agreesData_confused hst).mp h
  exact (d.agreesData_confused hst).mpr ⟨hN, by simp, hacc⟩

end

/-- R52: without a request the accesses stay as they were. -/
theorem agrees_of_request_none {e : Effect} {bytes : List Byte} {acc : List Access} (hreq : e.request = none)
    (h : e.decoder.Agrees bytes acc) : e.decoder.Agrees bytes (acc ++ e.request.toList) := by
  rwa [hreq, Option.toList_none, List.append_nil]

/-- R109, R124, R142, R143: the operation a byte selects leaves the record that the bytes with this one, and the accesses with its own,
say it is. -/
theorem agrees_effect {s : State} {i : Instr} {b : Byte} {bytes : List Byte} {acc : List Access}
    (hb : encode i = .transfer b) (hsel : s.selects i = true) (h : s.decoder.Agrees bytes acc) :
    (s.effect i).decoder.Agrees (bytes ++ [b]) (acc ++ (s.effect i).request.toList) := by
  obtain ⟨hl, hwf, hat⟩ := (selects_iff_decoder_selects s i).mp hsel
  cases i
  case hdrRd size rsv =>
    obtain rfl := Event.transfer.inj hb
    obtain ⟨-, hheader, -⟩ := headerEncodingFunction.1 .read size rsv (of_decide_eq_true hwf)
    exact agrees_of_request_none rfl (h.acceptHeader hat hheader)
  case hdrWr size rsv =>
    obtain rfl := Event.transfer.inj hb
    obtain ⟨-, hheader, -⟩ := headerEncodingFunction.1 .write size rsv (of_decide_eq_true hwf)
    exact agrees_of_request_none rfl (h.acceptHeader hat hheader)
  case reset => cases hb
  case init => cases hb
  all_goals obtain rfl := Event.transfer.inj hb
  case addr =>
    obtain ⟨hst, hmin, -⟩ := hat
    exact agrees_of_request_none rfl (h.acceptAddress hst (Nat.le_of_succ_le hmin))
  case addrLast =>
    obtain ⟨hst, hlast⟩ := hat
    exact agrees_of_request_none rfl (h.acceptAddress_data hl hst hlast)
  case wdata =>
    obtain ⟨hst, hdir, -, hmore⟩ := hat
    exact agrees_of_request_none rfl
      (h.append_data (.inl hst) rfl rfl fun _ hds => hds.acceptData hst hdir (Nat.le_of_succ_le hmore))
  case wdataLast =>
    obtain ⟨hst, hdir, -, hlast⟩ := hat
    exact h.append_data (.inl hst) rfl rfl fun _ hds => hds.finish_write hst hdir hlast
  case rdataFirst c =>
    obtain ⟨hst, hdir, hN, hfirst⟩ := hat
    obtain he | he := effect_rdataFirst s c <;> rw [he]
    · exact h.append_data (.inl hst) rfl rfl fun _ hds => hds.finish_read hst hdir hN hfirst
    · exact h.append_data (.inl hst) rfl rfl fun _ hds => hds.read_first hst hdir hN hfirst _
  case rdataNext =>
    obtain ⟨hst, hdir, -, hpos, hlt⟩ := hat
    exact agrees_of_request_none rfl
      (h.append_data (.inl hst) rfl rfl fun _ hds => hds.read_next hst hdir hpos hlt)
  case zdata =>
    obtain ⟨hst, hN⟩ := hat
    exact agrees_of_request_none rfl (h.append_data (.inl hst) rfl rfl fun _ hds => hds.confuse hst hN)
  case drain =>
    exact agrees_of_request_none rfl (h.append_data (.inr (.inl hat)) rfl rfl fun _ hds => hds.drain hat)
  case conf =>
    exact agrees_of_request_none rfl (h.append_data (.inr (.inr hat)) rfl rfl fun _ hds => hds.conf hat)

/-- Settles O39: a boundary leaves the reset record with nothing shown, and every selected operation keeps the agreement. -/
theorem recordFollowsTheWire : Obligations.RecordFollowsTheWire := by
  intro s t hs h
  refine step_keeps (Q := fun s => s.decoder.legal = true ∧ s.decoder.Agrees s.wire s.accesses)
    (fun _ _ _ hq => hq) (fun _ => ⟨Decoder.legal_reset, rfl, rfl, rfl⟩) (fun _ => ⟨Decoder.legal_reset, rfl, rfl, rfl⟩)
    ?_ hs h
  rintro s i b hb hsel ⟨-, hagree⟩
  refine ⟨effect_legal hsel, ?_⟩
  rw [State.complete_decoder, State.wire_complete, State.accesses_complete]
  exact agrees_effect hb hsel hagree

end Sys2Proof.Machine
end

section
/-! R140 to R144: what a data byte of a write does, and what the agreement of record and wire says of a whole write: no access until its
last byte, then the write of its data bytes. O13, O14 and O42 follow. -/

namespace Sys2Proof.Machine

/-! ### The data operations of a write -/

theorem Decoder.dataRemaining_le_N {d : Decoder} (hl : d.legal = true) (hst : d.state = .data) :
    d.dataRemaining.toNat ≤ d.N := by
  obtain ⟨-, ⟨-, h0⟩ | ⟨-, hle⟩⟩ := (d.legal_data hst).mp hl
  · rw [h0]
    exact Nat.zero_le _
  · exact hle

/-- R141, R143: the vector written is, byte by byte, the buffer with the last byte stored. -/
theorem getElem?_writeVector {n : Nat} (b : Byte) (buf : Buffer) (h4 : n ≤ 4) {j : Nat} (hj : j < n) :
    (writeVector n b buf)[j]? = some ((storeByte (n - 1) b buf)[j]'(hj.trans_le h4)) := by
  rw [writeVector_eq n b buf (Nat.one_le_of_lt hj) h4, List.getElem?_take_of_lt hj]
  exact Vector.getElem?_toList.trans (Vector.getElem?_eq_getElem (hj.trans_le h4))

/-- Settles O13: the row's condition selects WDATA, whose byte goes to the wire index of the count. -/
theorem writeByteStoredInWireOrder : Obligations.WriteByteStoredInWireOrder := by
  intro s b hc hl hst hdir hmore
  have hN : 0 < s.decoder.N := (Nat.zero_lt_of_lt hmore).trans_le (Decoder.dataRemaining_le_N hl hst)
  obtain ⟨hdec, hexec⟩ := decode_and_exec_of_selects hc hl (i := .wdata b) rfl rfl ⟨hst, hdir, hN, hmore⟩
  refine ⟨hdec, (s.decoder.acceptData b).dataBuffer, fun j => getElem_storeByte _ b _ j j.isLt, ?_⟩
  rw [hexec, ← dataCount_pred _ (Nat.one_le_of_lt hmore)]
  rfl

/-- Settles O14: the row's condition selects WDATA_LAST, which stores the byte at the last index and writes the bytes up to it. -/
theorem lastWriteByteDispatchesWrite : Obligations.LastWriteByteDispatchesWrite := by
  intro s b hc hl hst hdir hlast
  have hcount : s.decoder.dataRemaining.toNat = 1 := (dataCount_eq_one _).mp hlast
  have hN : 1 ≤ s.decoder.N := hcount ▸ Decoder.dataRemaining_le_N hl hst
  obtain ⟨hdec, hexec⟩ := decode_and_exec_of_selects hc hl (i := .wdataLast b) rfl rfl ⟨hst, hdir, hN, hcount⟩
  refine ⟨hdec, s.decoder.N, storeByte (s.decoder.N - 1) b s.decoder.dataBuffer,
    writeVector s.decoder.N b s.decoder.dataBuffer, rfl, hN, fun j => getElem_storeByte _ b _ j j.isLt,
    length_writeVector _ b _ hN s.decoder.N_le, fun j hj => getElem?_writeVector b _ s.decoder.N_le hj, ?_⟩
  have hbuffer : (s.decoder.acceptData b).dataBuffer = storeByte (s.decoder.N - 1) b s.decoder.dataBuffer := by
    rw [Decoder.acceptData_dataBuffer, hcount, dataIndex]
  rw [hexec, ← hbuffer]
  rfl

/-! ### Bytes taken one by one -/

@[simp] theorem State.wire_take (s : State) (rest : List Input) (r : Option Response) : (s.take rest r).wire = s.wire := rfl

/-- R39, R40: the reset record with nothing shown is what the wire says. -/
theorem State.followsWire_of_reset {s : State} (hd : s.decoder = Decoder.reset) (hex : s.exchanges = []) : s.FollowsWire := by
  intro _
  rw [hd, State.wire, State.accesses, hex]
  exact ⟨Decoder.legal_reset, rfl, rfl, rfl⟩

/-- R94, R100, R109: after each of the bytes to come, a record that follows the wire still does, the wire longer by the bytes taken. -/
theorem State.FollowsWire.run_xfers {s : State} {bs : List Byte} {rs : List (Option Response)} {rest : List Input}
    {k : Nat} (hs : s.FollowsWire) (hc : s.created = true) (hlen : rs.length = bs.length) (hin : s.inputs = xfers bs rs ++ rest)
    (hk : k ≤ bs.length) :
    ∃ t, s.run k = .next t ∧ t.inputs = xfers (bs.drop k) (rs.drop k) ++ rest ∧ t.decoder.legal = true ∧
      t.decoder.Agrees (s.wire ++ bs.take k) t.accesses := by
  obtain ⟨hl, hagree⟩ := hs hc
  induction k generalizing s bs rs with
  | zero => exact ⟨s, rfl, hin, hl, by rwa [List.take_zero, List.append_nil]⟩
  | succ k ih =>
    cases bs with
    | nil => exact absurd hk (Nat.not_succ_le_zero k)
    | cons b bs =>
      obtain ⟨r, rs, rfl⟩ := List.exists_of_length_succ rs hlen
      obtain ⟨i, -, -, hstep⟩ := step_transfer hc hl hin
      have hs' := recordFollowsTheWire _ _ hs hstep
      obtain ⟨hl', hagree'⟩ := hs' hc
      obtain ⟨t, hrun, ht⟩ := ih hs' hc (Nat.succ.inj hlen) rfl (Nat.le_of_succ_le_succ hk) hl' hagree'
      rw [State.wire_complete, State.wire_take, List.append_assoc] at ht
      exact ⟨t, State.run_succ_eq_next.mpr ⟨_, hstep, hrun⟩, ht⟩

/-! ### What the wire says of a write -/

/-- R81: a write header is a byte below 0x80. -/
theorem headerDirection_write (h : Byte) : headerDirection h = .write ↔ h.toNat < 128 := by
  have hread := headerDirection_read h
  cases hd : headerDirection h <;> simp [hd] at hread ⊢ <;> omega

section
variable {d : Decoder} {h a2 a1 a0 : Byte} {bytes ds : List Byte} {acc : List Access} {k : Nat}

/-- R105, R124: up to the end of the address phase no access was made; past it the record has the header and the address received. -/
theorem Decoder.Agrees.phase_cases (hagree : d.Agrees bytes acc) :
    (bytes.length ≤ 4 ∧ acc = []) ∨
    ∃ h a2 a1 a0 ds, bytes = h :: a2 :: a1 :: a0 :: ds ∧ d.header = decodeHeader h ∧
      d.addressBuffer = assembled a2 a1 a0 ∧ d.AgreesData ds acc := by
  cases hst : d.state
  case idle =>
    obtain ⟨-, rfl, hacc⟩ := (d.agrees_idle hst).mp hagree
    exact .inl ⟨Nat.zero_le _, hacc⟩
  case address =>
    obtain ⟨h, as, rfl, -, hlen, -, hacc⟩ := (d.agrees_address hst).mp hagree
    have has : as.length ≤ 3 := (Nat.le_add_right ..).trans_eq hlen
    exact .inl ⟨Nat.succ_le_succ has, hacc⟩
  case data => exact .inr ((d.agrees_past_address (.inl hst)).mp hagree)
  case done => exact .inr ((d.agrees_past_address (.inr (.inl hst))).mp hagree)
  case confused => exact .inr ((d.agrees_past_address (.inr (.inr hst))).mp hagree)

/-- R143: a write makes no access before the last of its data bytes. -/
theorem Decoder.AgreesData.no_write_yet (hdata : d.AgreesData ds acc) (hdir : d.header.direction = .write)
    (hshort : ds.length < d.N) : acc = [] := by
  obtain hst | hst | hst := hdata.state
  · obtain ⟨-, -, hacc⟩ := (d.agreesData_data_write hst hdir).mp hdata
    exact hacc
  · obtain ⟨-, hle, -⟩ := (d.agreesData_done_write hst hdir).mp hdata
    omega
  · obtain ⟨-, -, hacc⟩ := (d.agreesData_confused hst).mp hdata
    exact hacc

/-- R141, R143, R144: with all its data bytes come, a write is over, and made its one access, the write of those bytes. -/
theorem Decoder.AgreesData.write_done (hdata : d.AgreesData ds acc) (hl : d.legal = true)
    (hdir : d.header.direction = .write) (hN : d.N = ds.length) (hpos : 1 ≤ ds.length) :
    d.state = .done ∧ acc = [.write d.addressBuffer ds.length ds] ∧ d.dataBuffer.toList.take ds.length = ds := by
  obtain hst | hst | hst := hdata.state
  · obtain ⟨hlen, -, -⟩ := (d.agreesData_data_write hst hdir).mp hdata
    obtain ⟨hmore, -⟩ := Decoder.dataRemaining_range hl hst (by omega)
    omega
  · obtain ⟨-, -, hbuffer, hacc⟩ := (d.agreesData_done_write hst hdir).mp hdata
    rw [hN, List.take_length] at hbuffer hacc
    exact ⟨hst, hacc, hbuffer⟩
  · obtain ⟨hzero, -, -⟩ := (d.agreesData_confused hst).mp hdata
    omega

/-- R88, R143: fewer bytes than a whole write show no access. -/
theorem Decoder.Agrees.no_write_yet (hagree : d.Agrees ((h :: a2 :: a1 :: a0 :: ds).take k) acc)
    (hdir : headerDirection h = .write) (hN : clampN (headerSize h).toNat = ds.length) (hk : k < 4 + ds.length) :
    acc = [] := by
  obtain ⟨-, hacc⟩ | ⟨h', a2', a1', a0', ds', hbytes, hheader, -, hdata⟩ := hagree.phase_cases
  · exact hacc
  · have hlen := congrArg List.length hbytes
    simp only [List.length_take, List.length_cons] at hlen
    cases k with
    | zero => cases hbytes
    | succ k =>
      obtain ⟨rfl, -⟩ := List.cons.inj hbytes
      have hdN : d.N = ds.length := by rw [Decoder.N, hheader]; exact hN
      exact hdata.no_write_yet (by rw [hheader]; exact hdir) (by omega)

/-- R88, R143: the bytes of a whole write show its one access, of the address and the data received. -/
theorem Decoder.Agrees.write_done (hagree : d.Agrees (h :: a2 :: a1 :: a0 :: ds) acc) (hl : d.legal = true)
    (hdir : headerDirection h = .write) (hN : clampN (headerSize h).toNat = ds.length) (hpos : 1 ≤ ds.length) :
    d.state = .done ∧ acc = [.write (assembled a2 a1 a0) ds.length ds] ∧ d.dataBuffer.toList.take ds.length = ds := by
  obtain ⟨hlen, -⟩ | ⟨_, _, _, _, _, hbytes, hheader, haddr, hdata⟩ := hagree.phase_cases
  · simp only [List.length_cons] at hlen
    omega
  · cases hbytes
    have hdN : d.N = ds.length := by rw [Decoder.N, hheader]; exact hN
    rw [← haddr]
    exact hdata.write_done hl (by rw [hheader]; exact hdir) hdN hpos

end

/-- Settles O42: the record follows the wire after every byte, and the wire says when a write has made its access. -/
theorem writeTransaction : Obligations.WriteTransaction := by
  intro s h a2 a1 a0 ds rs rest hc hd hex hwrite hlen hpos hrs hin
  have hdir : headerDirection h = .write := (headerDirection_write h).mpr hwrite
  have hN : clampN (headerSize h).toNat = ds.length := by rw [headerSize_toNat, hlen]; rfl
  have hbytes : (h :: a2 :: a1 :: a0 :: ds).length = 4 + ds.length := Nat.add_comm ds.length 4
  have hwire : s.wire = [] := by rw [State.wire, hex]; rfl
  have hrun {k : Nat} (hk : k ≤ 4 + ds.length) :=
    (State.followsWire_of_reset hd hex).run_xfers hc (hrs.trans hbytes.symm) hin (hk.trans_eq hbytes.symm)
  rw [hwire] at hrun
  refine ⟨fun k hk => ?_, ?_⟩
  · obtain ⟨u, hrun, -, -, hagree⟩ := hrun (k := k) (by omega)
    exact ⟨u, hrun, hagree.no_write_yet hdir hN (by omega)⟩
  · obtain ⟨t, hrun, hinputs, hl, hagree⟩ := hrun le_rfl
    rw [List.take_of_length_le hbytes.le] at hagree
    rw [List.drop_of_length_le hbytes.le] at hinputs
    obtain ⟨hst, hacc, hbuffer⟩ := hagree.write_done hl hdir hN hpos
    exact ⟨t, hrun, hst, hinputs, hacc, hbuffer⟩

end Sys2Proof.Machine
end

section
/-! R160 to R163: what a data byte of a read does, what the calls of a run show one by one, and what that and the agreement of record and
wire say of a whole read: the one read with its first data byte, then its bytes in order, or one report. O15, O16, O43, O48 and O51 follow. -/

namespace Sys2Proof.Machine

/-! ### The data operations of a read -/

/-- R160, R161: a data byte of a read taken, its fields written out. -/
theorem Decoder.countDown_of_data {d : Decoder} (hst : d.state = .data) (hpos : 1 ≤ d.dataRemaining.toNat) :
    d.countDown =
      { d with dataRemaining := d.dataRemaining - 1, state := if d.dataRemaining.toNat = 1 then .done else .data } := by
  rw [← d.countDown_state_of_data hst hpos, ← dataCount_pred _ hpos]
  rfl

theorem effect_rdataFirst_of_fail {s : State} (b : Byte) (hf : s.response.fail = true) :
    s.effect (.rdataFirst b) = accessEffect s (memRead s.decoder) s.decoder := if_pos hf

theorem effect_rdataFirst_of_success {s : State} (b : Byte) (hf : s.response.fail = false) :
    s.effect (.rdataFirst b) = readSuccess s := if_neg (Bool.eq_false_iff.mp hf)

theorem accessStatus_of_fail {r : Response} (a : Access) (hf : r.fail = true) :
    accessStatus a r = .collabFault a.kind a.addr a.width := if_pos hf

theorem accessStatus_of_success {r : Response} (a : Access) (hf : r.fail = false) : accessStatus a r = .ok :=
  if_neg (Bool.eq_false_iff.mp hf)

/-- Settles O15: the row's condition selects RDATA_FIRST, whose effect is the failed or the successful read. -/
theorem firstReadByteDispatchesRead : Obligations.FirstReadByteDispatchesRead := by
  intro s b hc hl hst hdir hN hfirst
  obtain ⟨hdec, hexec⟩ := decode_and_exec_of_selects hc hl (i := .rdataFirst b) rfl rfl ⟨hst, hdir, hN, hfirst⟩
  refine ⟨hdec, s.decoder.N, rfl, fun hf => ?_, fun hf =>
    ⟨fillBytes s.decoder.N s.response.data s.decoder.dataBuffer, fun j => getElem_fillBytes _ _ _ j j.isLt, ?_⟩⟩
  · rw [hexec, effect_rdataFirst_of_fail b hf, accessEffect, accessStatus_of_fail _ hf]
    rfl
  · have hrecord := Decoder.countDown_of_data
      (d := { s.decoder with dataBuffer := fillBytes s.decoder.N s.response.data s.decoder.dataBuffer }) hst (hfirst ▸ hN)
    rw [hexec, effect_rdataFirst_of_success b hf, readSuccess, hrecord, hfirst, loadByte_of_lt _ _ _ (by decide)]
    rfl

/-- Settles O16: the row's condition selects RDATA_NEXT, whose index is within the buffer since N is at most 4. -/
theorem nextReadByteStreamsBuffer : Obligations.NextReadByteStreamsBuffer := by
  intro s b hc hl hst hdir hpos hlt
  have hN : s.decoder.N ≤ 4 := s.decoder.N_le
  have hindex : dataIndex s.decoder.N s.decoder.dataRemaining.toNat < 4 := by rw [dataIndex]; omega
  obtain ⟨hdec, hexec⟩ :=
    decode_and_exec_of_selects hc hl (i := .rdataNext b) rfl rfl ⟨hst, hdir, Nat.zero_lt_of_lt hlt, hpos, hlt⟩
  refine ⟨hdec, ⟨_, hindex⟩, rfl, ?_⟩
  rw [hexec, State.effect, Decoder.countDown_of_data hst hpos, loadByte_of_lt _ _ _ hindex]
  simp only [dataCount_eq_one]
  rfl

/-- R100: two bytes whose operations are selected alike and have one effect leave one record and show one reply. -/
theorem exec_of_same_effect {s t : State} {i i' : Instr} {b b' : Byte} (hb : encode i = .transfer b)
    (hb' : encode i' = .transfer b') (hsel : s.selects i' = s.selects i) (he : s.effect i' = s.effect i)
    (h : exec i s = .next t) :
    ∃ t', exec i' s = .next t' ∧ t'.decoder = t.decoder ∧
      t'.exchanges.map Exchange.reply = t.exchanges.map Exchange.reply := by
  rw [exec_eq_transfer hb, State.transfer_eq_next] at h
  obtain ⟨hc, hsel', rfl⟩ := h
  refine ⟨s.complete b' (s.effect i), ?_, rfl, by simp⟩
  rw [exec_eq_transfer hb', State.transfer_eq_next, hsel, he]
  exact ⟨hc, hsel', rfl⟩

/-- Settles O48: neither the row's condition nor the effect of the two operations has the byte in it. -/
theorem readPhaseIgnoresIncomingByte : Obligations.ReadPhaseIgnoresIncomingByte :=
  fun _ _ _ _ => ⟨exec_of_same_effect rfl rfl rfl rfl, exec_of_same_effect rfl rfl rfl rfl⟩

/-! ### The effects of a read, byte by byte -/

/-- R205, R220: once the transaction's access was made, no operation has anything to report. -/
theorem effect_status_of_accessed {s : State} {i : Instr} (hsel : s.selects i = true)
    (hmade : s.decoder.accessesMade = 1) : (s.effect i).status = .ok := by
  obtain ⟨hl, -, hat⟩ := (selects_iff_decoder_selects s i).mp hsel
  cases i
  case wdataLast =>
    obtain ⟨hst, hdir, -⟩ := hat
    rw [Decoder.accessesMade_of_write hst hdir] at hmade
    cases hmade
  case rdataFirst =>
    obtain ⟨hst, -, -, hdr⟩ := hat
    rw [Decoder.accessesMade_of_full hst hdr] at hmade
    cases hmade
  case zdata =>
    obtain ⟨hst, hN⟩ := hat
    have hdr : s.decoder.dataRemaining.toNat = s.decoder.N := by
      rw [Decoder.dataRemaining_of_N_eq_zero hl hst hN, hN]; rfl
    rw [Decoder.accessesMade_of_full hst hdr] at hmade
    cases hmade
  all_goals rfl

/-- R205: an access made stays the only one. -/
theorem accessesMade_effect_of_accessed {s : State} {i : Instr} {b : Byte} (hb : encode i = .transfer b)
    (hsel : s.selects i = true) (hmade : s.decoder.accessesMade = 1) : (s.effect i).decoder.accessesMade = 1 := by
  have hcount := accessesMade_effect hb hsel
  have hle := (s.effect i).decoder.accessesMade_le_one
  omega

/-- R160: what the read buffers is the answer's first bytes. -/
theorem take_fillBytes {n : Nat} (data buf : Buffer) : (fillBytes n data buf).toList.take n = data.toList.take n := by
  apply List.ext_getElem
  · simp
  · intro j hj _
    have hj : j < n ∧ j < 4 := by simpa using hj
    rw [List.getElem_take, List.getElem_take, Vector.getElem_toList, Vector.getElem_toList,
      getElem_fillBytes _ _ _ _ hj.2, if_pos hj.1]

/-- R160: the first byte shows whether the read failed. -/
theorem effect_rdataFirst_status (s : State) (b : Byte) :
    (s.effect (.rdataFirst b)).status = accessStatus (memRead s.decoder) s.response := by
  cases hf : s.response.fail
  · rw [effect_rdataFirst_of_success b hf, accessStatus_of_success _ hf]; rfl
  · rw [effect_rdataFirst_of_fail b hf]; rfl

/-- R161: the replies that a read whose first byte was replied still has to give: those at the wire indices from N - dr up. -/
def Decoder.Streams (d : Decoder) (vs : List Byte) : Prop :=
  (d.state = .done ∧ vs = []) ∨
  (d.state = .data ∧ d.header.direction = .read ∧ 1 ≤ d.dataRemaining.toNat ∧ d.dataRemaining.toNat < d.N ∧
    vs = (d.dataBuffer.toList.take d.N).drop (dataIndex d.N d.dataRemaining.toNat))

/-- R160, R161: after a byte of a read the replies at the next indices are to come, none after the last. -/
theorem Decoder.countDown_streams {d : Decoder} (hst : d.state = .data) (hdir : d.header.direction = .read)
    (hpos : 1 ≤ d.dataRemaining.toNat) (hle : d.dataRemaining.toNat ≤ d.N) {j : Nat}
    (hj : dataIndex d.N d.dataRemaining.toNat = j) : d.countDown.Streams ((d.dataBuffer.toList.take d.N).drop (j + 1)) := by
  subst hj
  have hpred : d.countDown.dataRemaining.toNat = d.dataRemaining.toNat - 1 := toNat_pred _
  have hstate := Decoder.countDown_state_of_data hst hpos
  by_cases hlast : d.dataRemaining.toNat = 1
  · rw [if_pos hlast] at hstate
    refine .inl ⟨hstate, List.drop_eq_nil_of_le ((List.length_take_le ..).trans ?_)⟩
    rw [dataIndex]; omega
  · rw [if_neg hlast] at hstate
    have hindex : dataIndex d.N d.dataRemaining.toNat + 1 = dataIndex d.countDown.N d.countDown.dataRemaining.toNat := by
      rw [hpred, d.countDown_N, dataIndex, dataIndex]; omega
    rw [hindex]
    exact .inr ⟨hstate, hdir, by omega, by rw [hpred, d.countDown_N]; omega, rfl⟩

/-- R161: a byte that comes while replies are to come is RDATA_NEXT and shows the first of them. -/
theorem effect_of_streams {s : State} {i : Instr} {b v : Byte} {vs : List Byte} (hb : encode i = .transfer b)
    (hsel : s.selects i = true) (h : s.decoder.Streams (v :: vs)) :
    (s.effect i).reply = v ∧ (s.effect i).decoder.Streams vs := by
  obtain ⟨-, hnil⟩ | ⟨hst, hdir, hpos, hlt, hvs⟩ := h
  · cases hnil
  · obtain ⟨hl, -⟩ := (State.selects_iff ..).mp hsel
    have hnext : s.selects (.rdataNext b) = true :=
      (selects_iff_decoder_selects ..).mpr ⟨hl, rfl, hst, hdir, Nat.zero_lt_of_lt hlt, hpos, hlt⟩
    obtain rfl : i = .rdataNext b := eq_of_selects hb hsel hnext
    have hN : s.decoder.N ≤ 4 := s.decoder.N_le
    have hindex : dataIndex s.decoder.N s.decoder.dataRemaining.toNat < s.decoder.N := by rw [dataIndex]; omega
    have hlength :
        dataIndex s.decoder.N s.decoder.dataRemaining.toNat < (s.decoder.dataBuffer.toList.take s.decoder.N).length := by
      rw [List.length_take, Vector.length_toList]
      exact lt_min hindex (hindex.trans_le hN)
    rw [List.drop_eq_getElem_cons hlength] at hvs
    obtain ⟨rfl, rfl⟩ := List.cons.inj hvs
    refine ⟨?_, Decoder.countDown_streams hst hdir hpos hlt.le rfl⟩
    rw [List.getElem_take, Vector.getElem_toList]
    exact loadByte_of_lt _ _ _ (hindex.trans_le hN)

/-- R160: a read that succeeds replies the answer's first byte and has the others to reply. -/
theorem effect_rdataFirst_streams {s : State} {b : Byte} (hat : s.decoder.Selects (.rdataFirst b))
    (hf : s.response.fail = false) :
    ∃ vs, s.response.data.toList.take s.decoder.N = (s.effect (.rdataFirst b)).reply :: vs ∧
      (s.effect (.rdataFirst b)).decoder.Streams vs := by
  obtain ⟨hst, hdir, hN, hfirst⟩ := hat
  have hindex : dataIndex s.decoder.N s.decoder.dataRemaining.toNat = 0 := Nat.sub_eq_zero_of_le hfirst.ge
  have hstreams := Decoder.countDown_streams
    (d := { s.decoder with dataBuffer := fillBytes s.decoder.N s.response.data s.decoder.dataBuffer })
    hst hdir (hfirst ▸ hN) hfirst.le hindex
  have hhead : loadByte 0 s.dontCare s.response.data = (s.response.data.toList.take s.decoder.N)[0]'(by simpa using hN) := by
    rw [List.getElem_take, Vector.getElem_toList, loadByte_of_lt _ _ _ (by decide)]
  rw [effect_rdataFirst_of_success b hf]
  refine ⟨(s.response.data.toList.take s.decoder.N).drop 1, ?_, ?_⟩
  · rw [readSuccess, hhead, ← List.drop_eq_getElem_cons, List.drop_zero]
  · rw [← take_fillBytes s.response.data s.decoder.dataBuffer]
    exact hstreams

/-! ### What the calls of a run show -/

/-- One completed call as the outside sees it. -/
def Effect.exchange (e : Effect) (b : Byte) : Exchange :=
  { incoming := b, reply := e.reply, status := e.status, request := e.request }

/-- R92, R100: a step on a byte completes the call of the operation selected. -/
theorem step_of_selects {s : State} {i : Instr} {b : Byte} {r : Option Response} {rest : List Input}
    (hc : s.created = true) (hin : s.inputs = .transfer b r :: rest) (henc : encode i = .transfer b)
    (hsel : s.selects i = true) : step s = .next ((s.take rest r).complete b ((s.take rest r).effect i)) := by
  obtain ⟨hl, -⟩ := (State.selects_iff ..).mp hsel
  obtain ⟨j, henc', hsel', hstep⟩ := step_transfer hc hl hin
  obtain rfl : j = i := eq_of_selects (s := s) (henc'.trans henc.symm) hsel' hsel
  exact hstep

/-- The calls of the next `k` steps show the values `vs` of `f`, oldest first. -/
def State.Shows {α : Type} (s : State) (f : Exchange → α) (k : Nat) (vs : List α) : Prop :=
  ∃ t, s.run k = .next t ∧ t.exchanges.map f = s.exchanges.map f ++ vs

section
variable {α : Type} {f : Exchange → α} {s t : State} {k : Nat} {vs : List α}

theorem State.Shows.of_step {b : Byte} {r : Option Response} {rest : List Input} {e : Effect}
    (hstep : step s = .next ((s.take rest r).complete b e)) (h : ((s.take rest r).complete b e).Shows f k vs) :
    s.Shows f (k + 1) (f (e.exchange b) :: vs) := by
  obtain ⟨t, hrun, hshown⟩ := h
  refine ⟨t, State.run_succ_eq_next.mpr ⟨_, hstep, hrun⟩, ?_⟩
  rw [hshown, State.exchanges_complete, List.map_append, List.append_assoc]
  rfl

theorem State.Shows.map_drop {n : Nat} (h : s.Shows f k vs) (hrun : s.run k = .next t) (hn : s.exchanges.length = n) :
    (t.exchanges.drop n).map f = vs := by
  subst hn
  obtain ⟨t', hrun', hshown⟩ := h
  obtain rfl : t = t' := Host.Outcome.next.inj (hrun.symm.trans hrun')
  rw [List.map_drop, hshown, ← List.length_map (f := f), List.drop_left]

/-- The induction over the bytes of a run for what its calls show: `I d vs` says that with the record `d` the calls to come show
the values `vs`. -/
theorem shows_of_xfers {I : Decoder → List α → Prop}
    (hcall : ∀ (s : State) i b v vs, encode i = .transfer b → s.selects i = true → I s.decoder (v :: vs) →
      f ((s.effect i).exchange b) = v ∧ I (s.effect i).decoder vs)
    {bs : List Byte} {rs : List (Option Response)} {rest : List Input}
    (hc : s.created = true) (hl : s.decoder.legal = true) (hlen : rs.length = bs.length)
    (hin : s.inputs = xfers bs rs ++ rest) (hvs : vs.length ≤ bs.length) (hI : I s.decoder vs) :
    s.Shows f vs.length vs := by
  induction vs generalizing s bs rs with
  | nil => exact ⟨s, rfl, (List.append_nil _).symm⟩
  | cons v vs ih =>
    cases bs with
    | nil => exact absurd hvs (Nat.not_succ_le_zero _)
    | cons b bs =>
      obtain ⟨r, rs, rfl⟩ := List.exists_of_length_succ rs hlen
      obtain ⟨i, henc, hsel, hstep⟩ := step_transfer hc hl hin
      obtain ⟨rfl, hI'⟩ := hcall _ i b v vs henc hsel hI
      have hl' := effect_legal hsel
      exact .of_step hstep
        (ih (s := (s.take _ r).complete b _) hc hl' (Nat.succ.inj hlen) rfl (Nat.le_of_succ_le_succ hvs) hI')

end

/-! ### The data phase of a read -/

section
variable {s : State} {bs : List Byte} {rs : List (Option Response)} {rest : List Input} {k : Nat}

/-- R103: one exchange per byte. -/
theorem length_exchanges_of_run_xfers {t : State} (hc : s.created = true) (hl : s.decoder.legal = true)
    (hlen : rs.length = bs.length) (hin : s.inputs = xfers bs rs ++ rest) (hk : k ≤ bs.length) (hrun : s.run k = .next t) :
    t.exchanges.length = s.exchanges.length + k := by
  obtain ⟨t', hrun', hshown⟩ := shows_of_xfers (f := fun _ => ()) (I := fun _ _ => True) (vs := List.replicate k ())
    (fun _ _ _ _ _ _ _ _ => ⟨rfl, trivial⟩) hc hl hlen hin (List.length_replicate.trans_le hk) trivial
  rw [List.length_replicate, hrun] at hrun'
  cases hrun'
  simpa using congrArg List.length hshown

/-- R161, R184: the bytes after the transaction's access have status OK. -/
theorem shows_ok_of_accessed (hc : s.created = true) (hl : s.decoder.legal = true) (hlen : rs.length = bs.length)
    (hin : s.inputs = xfers bs rs ++ rest) (hmade : s.decoder.accessesMade = 1) :
    s.Shows Exchange.status bs.length (List.replicate bs.length .ok) := by
  have hshows := shows_of_xfers (f := Exchange.status) (vs := List.replicate bs.length .ok)
    (I := fun d vs => d.accessesMade = 1 ∧ ∀ v ∈ vs, v = .ok) ?_ hc hl hlen hin List.length_replicate.le
    ⟨hmade, fun _ => List.eq_of_mem_replicate⟩
  · rwa [List.length_replicate] at hshows
  · rintro s i b v vs hb hsel ⟨hmade, hvs⟩
    obtain ⟨hv, hvs⟩ := List.forall_mem_cons.mp hvs
    exact ⟨(effect_status_of_accessed hsel hmade).trans hv.symm, accessesMade_effect_of_accessed hb hsel hmade, hvs⟩

/-- R160, R161, R184: after the first byte of a read, which shows the outcome of its access, the others have status OK. -/
theorem shows_ok_after_rdataFirst {b : Byte} (hc : s.created = true) (hsel : s.selects (.rdataFirst b) = true)
    (hlen : rs.length = bs.length) (hin : s.inputs = xfers bs rs ++ rest) :
    (s.complete b (s.effect (.rdataFirst b))).Shows Exchange.status bs.length (List.replicate bs.length .ok) := by
  obtain ⟨-, -, hst, -, -, hdr⟩ := (selects_iff_decoder_selects ..).mp hsel
  have hmade := accessesMade_effect rfl hsel
  rw [Decoder.accessesMade_of_full hst hdr, effect_request_rdataFirst] at hmade
  exact shows_ok_of_accessed (s := s.complete b _) hc (effect_legal hsel) hlen hin hmade

/-- R160, R161: after the first byte of a read that succeeds, the others show the rest of the answer's bytes in order. -/
theorem shows_answer_after_rdataFirst {b : Byte} {vs : List Byte} (hc : s.created = true)
    (hsel : s.selects (.rdataFirst b) = true) (hlen : rs.length = bs.length) (hin : s.inputs = xfers bs rs ++ rest)
    (hstreams : (s.effect (.rdataFirst b)).decoder.Streams vs) (hvs : vs.length = bs.length) :
    (s.complete b (s.effect (.rdataFirst b))).Shows Exchange.reply bs.length vs := by
  have hshows := shows_of_xfers (f := Exchange.reply) (I := Decoder.Streams) (fun _ _ _ _ _ => effect_of_streams)
    (s := s.complete b _) hc (effect_legal hsel) hlen hin hvs.le hstreams
  rwa [hvs] at hshows

end

/-- R160, R163, R184: the data bytes of a read whose first meets the answer `r` show its outcome and then status OK; where it does not
fail, they show its bytes in order. -/
theorem shows_read_data {s : State} {ds : List Byte} {q : Option Response} {r : Response} {rs : List (Option Response)}
    {rest : List Input} (hc : s.created = true) (hl : s.decoder.legal = true) (hst : s.decoder.state = .data)
    (hdir : s.decoder.header.direction = .read) (hdr : s.decoder.dataRemaining.toNat = s.decoder.N)
    (hN : s.decoder.N = ds.length) (hpos : 1 ≤ ds.length) (hlen : rs.length + 1 = ds.length)
    (hin : s.inputs = xfers ds (q :: rs) ++ rest) (hr : State.response { s with rsp := q } = r) :
    s.Shows Exchange.status ds.length (accessStatus (memRead s.decoder) r :: List.replicate (ds.length - 1) .ok) ∧
    (r.fail = false → s.Shows Exchange.reply ds.length (r.data.toList.take ds.length)) := by
  cases ds with
  | nil => exact absurd hpos (by decide)
  | cons b ds =>
    have hat : s.decoder.Selects (.rdataFirst b) := ⟨hst, hdir, hN ▸ hpos, hdr⟩
    have hsel : (s.take (xfers ds rs ++ rest) q).selects (.rdataFirst b) = true :=
      (selects_iff_decoder_selects ..).mpr ⟨hl, rfl, hat⟩
    have hstep := step_of_selects (i := .rdataFirst b) (rest := xfers ds rs ++ rest) hc hin rfl hsel
    have hr' : (s.take (xfers ds rs ++ rest) q).response = r := hr
    have hlen' : rs.length = ds.length := Nat.succ.inj hlen
    refine ⟨?_, fun hf => ?_⟩
    · have hshows := State.Shows.of_step hstep (shows_ok_after_rdataFirst hc hsel hlen' rfl)
      rwa [Effect.exchange, effect_rdataFirst_status, hr'] at hshows
    · obtain ⟨vs, hvs, hstreams⟩ := effect_rdataFirst_streams (s := s.take (xfers ds rs ++ rest) q) hat (hr' ▸ hf)
      rw [hr', State.take_decoder, hN] at hvs
      have hvslen : vs.length = ds.length := by
        have hN4 : (b :: ds).length ≤ 4 := hN ▸ s.decoder.N_le
        have htake : (r.data.toList.take (b :: ds).length).length = (b :: ds).length := List.length_take_of_le (by simpa using hN4)
        rw [hvs] at htake
        exact Nat.succ.inj htake
      rw [hvs]
      exact State.Shows.of_step hstep (shows_answer_after_rdataFirst hc hsel hlen' rfl hstreams hvslen)

/-! ### What the wire says of a read -/

section
variable {d : Decoder} {h a2 a1 a0 : Byte} {bytes ds : List Byte} {acc : List Access}

/-- R52: without a data byte there is no access. -/
theorem Decoder.AgreesData.no_access_yet (hdata : d.AgreesData [] acc) : acc = [] := by
  obtain hst | hst | hst := hdata.state
  · cases hdir : d.header.direction
    case write =>
      obtain ⟨-, -, hacc⟩ := (d.agreesData_data_write hst hdir).mp hdata
      exact hacc
    case read =>
      obtain ⟨-, hacc⟩ := (d.agreesData_data_read hst hdir).mp hdata
      exact hacc
  · cases hdir : d.header.direction
    case write =>
      obtain ⟨hpos, hle, -⟩ := (d.agreesData_done_write hst hdir).mp hdata
      exact absurd (hpos.trans hle) (by decide)
    case read =>
      obtain ⟨-, hds, -⟩ := (d.agreesData_done_read hst hdir).mp hdata
      exact absurd rfl hds
  · obtain ⟨-, -, hacc⟩ := (d.agreesData_confused hst).mp hdata
    exact hacc

/-- R52, R121: header and address make no access. -/
theorem Decoder.Agrees.no_access_yet (hagree : d.Agrees bytes acc) (hlen : bytes.length ≤ 4) : acc = [] := by
  obtain ⟨-, hacc⟩ | ⟨_, _, _, _, ds, rfl, -, -, hdata⟩ := hagree.phase_cases
  · exact hacc
  · obtain rfl : ds = [] := List.eq_nil_of_length_eq_zero (by simp only [List.length_cons] at hlen; omega)
    exact hdata.no_access_yet

/-- R160, R205: from the first data byte on the one access is the read. -/
theorem Decoder.AgreesData.read_made (hdata : d.AgreesData ds acc) (hdir : d.header.direction = .read) (hN : 0 < d.N)
    (hds : ds ≠ []) : acc = [.read d.addressBuffer d.N] := by
  obtain hst | hst | hst := hdata.state
  · obtain ⟨-, hacc⟩ := (d.agreesData_data_read hst hdir).mp hdata
    exact hacc.trans (if_neg hds)
  · obtain ⟨-, -, hacc⟩ := (d.agreesData_done_read hst hdir).mp hdata
    exact hacc
  · obtain ⟨hzero, -⟩ := (d.agreesData_confused hst).mp hdata
    omega

/-- R161: with all its data bytes come, a read is over. -/
theorem Decoder.AgreesData.read_over (hdata : d.AgreesData ds acc) (hl : d.legal = true) (hdir : d.header.direction = .read)
    (hN : d.N = ds.length) (hpos : 1 ≤ ds.length) : d.state = .done := by
  obtain hst | hst | hst := hdata.state
  · obtain ⟨hlen, -⟩ := (d.agreesData_data_read hst hdir).mp hdata
    obtain ⟨hmore, -⟩ := Decoder.dataRemaining_range hl hst (by omega)
    omega
  · exact hst
  · obtain ⟨hzero, -⟩ := (d.agreesData_confused hst).mp hdata
    omega

/-- R105, R124: with a data byte come, the record has the header and the address received. -/
theorem Decoder.Agrees.past_address (hagree : d.Agrees (h :: a2 :: a1 :: a0 :: ds) acc) (hds : ds ≠ []) :
    d.header = decodeHeader h ∧ d.addressBuffer = assembled a2 a1 a0 ∧ d.AgreesData ds acc := by
  obtain ⟨hlen, -⟩ | ⟨_, _, _, _, _, hbytes, hrecord⟩ := hagree.phase_cases
  · have hpos := List.length_pos_iff.mpr hds
    simp only [List.length_cons] at hlen
    omega
  · cases hbytes
    exact hrecord

/-- R88, R160: a read with a data byte come has made its one access, of the address received and the clamped width. -/
theorem Decoder.Agrees.read_made (hagree : d.Agrees (h :: a2 :: a1 :: a0 :: ds) acc) (hdir : headerDirection h = .read)
    (hN : 0 < clampN (headerSize h).toNat) (hds : ds ≠ []) :
    acc = [.read (assembled a2 a1 a0) (clampN (headerSize h).toNat)] := by
  obtain ⟨hheader, haddr, hdata⟩ := hagree.past_address hds
  have hdN : d.N = clampN (headerSize h).toNat := by rw [Decoder.N, hheader]; rfl
  rw [← haddr, ← hdN]
  exact hdata.read_made (by rw [hheader]; exact hdir) (hdN ▸ hN) hds

/-- R88, R161: the bytes of a whole read leave it over. -/
theorem Decoder.Agrees.read_over (hagree : d.Agrees (h :: a2 :: a1 :: a0 :: ds) acc) (hl : d.legal = true)
    (hdir : headerDirection h = .read) (hN : clampN (headerSize h).toNat = ds.length) (hpos : 1 ≤ ds.length) :
    d.state = .done := by
  obtain ⟨hheader, -, hdata⟩ := hagree.past_address (List.ne_nil_of_length_pos hpos)
  have hdN : d.N = ds.length := by rw [Decoder.N, hheader]; exact hN
  exact hdata.read_over hl (by rw [hheader]; exact hdir) hdN hpos

end

/-! ### Whole read transactions -/

section
variable {s : State} {h a2 a1 a0 : Byte} {ds : List Byte} {rs : List (Option Response)} {rest : List Input} {k : Nat}

/-- R94, R109: after each byte of a transaction from the reset record, the record is what the bytes taken say. -/
theorem run_frame_agrees (hc : s.created = true) (hd : s.decoder = Decoder.reset) (hex : s.exchanges = [])
    (hlen : rs.length = 4 + ds.length) (hin : s.inputs = xfers (h :: a2 :: a1 :: a0 :: ds) rs ++ rest)
    (hk : k ≤ 4 + ds.length) :
    ∃ t, s.run k = .next t ∧ t.inputs = xfers ((h :: a2 :: a1 :: a0 :: ds).drop k) (rs.drop k) ++ rest ∧
      t.decoder.legal = true ∧ t.decoder.Agrees ((h :: a2 :: a1 :: a0 :: ds).take k) t.accesses := by
  have hbytes : (h :: a2 :: a1 :: a0 :: ds).length = 4 + ds.length := Nat.add_comm ds.length 4
  have hwire : s.wire = [] := by rw [State.wire, hex]; rfl
  have hrun := (State.followsWire_of_reset hd hex).run_xfers hc (hlen.trans hbytes.symm) hin (hk.trans_eq hbytes.symm)
  rwa [hwire, List.nil_append] at hrun

/-- R88, R124: after the header and the address the data bytes are to come, with the answers from the fifth on. -/
theorem run_address_phase (hc : s.created = true) (hd : s.decoder = Decoder.reset) (hex : s.exchanges = [])
    (hlen : rs.length = 4 + ds.length) (hin : s.inputs = xfers (h :: a2 :: a1 :: a0 :: ds) rs ++ rest) :
    ∃ u, s.run 4 = .next u ∧ u.exchanges.length = 4 ∧
      u.Stands (Decoder.addressed h (assembled a2 a1 a0)) [] (xfers ds (rs.drop 4) ++ rest) := by
  have hacc : s.accesses = [] := by rw [State.accesses, hex]; rfl
  have hbytes : (h :: a2 :: a1 :: a0 :: ds).length = 4 + ds.length := Nat.add_comm ds.length 4
  obtain ⟨u, hrun, hinputs, -⟩ := run_frame_agrees hc hd hex hlen hin (Nat.le_add_right 4 ds.length)
  have hcount := length_exchanges_of_run_xfers hc (hd ▸ Decoder.legal_reset) (hlen.trans hbytes.symm) hin
    ((Nat.le_add_right 4 ds.length).trans_eq hbytes.symm) hrun
  obtain ⟨_, _, _, _, _, -, hxfers⟩ := exists_xfers_frame (h := h) (a2 := a2) (a1 := a1) (a0 := a0) (rest := rest) hlen
  obtain ⟨u', hrun', hu⟩ := State.Stands.addressPhase ⟨hc, hd, hacc, hin.trans hxfers⟩
  obtain rfl : u = u' := Host.Outcome.next.inj (hrun.symm.trans hrun')
  rw [hex] at hcount
  exact ⟨u, hrun, hcount, hu.created, hu.decoder, hu.accesses, hinputs⟩

end

/-- Settles O51: the wire says that the read was made and is over, the calls of the data phase show its outcome and its bytes. -/
theorem readTransactionUnderAnyAnswer : Obligations.ReadTransactionUnderAnyAnswer := by
  intro s h a2 a1 a0 ds rs q rest hc hd hex hread hlen hpos hrs hq hin
  have hdir : headerDirection h = .read := (headerDirection_read h).mpr hread
  have hN : clampN (headerSize h).toNat = ds.length := by rw [headerSize_toNat, hlen]; rfl
  have hbytes : (h :: a2 :: a1 :: a0 :: ds).length = 4 + ds.length := Nat.add_comm ds.length 4
  obtain ⟨u, hrunu, hcount, hcu, hdu, haccu, hinu⟩ := run_address_phase hc hd hex hrs hin
  obtain ⟨t, hrunt, hinputs, hl, hagree⟩ := run_frame_agrees hc hd hex hrs hin le_rfl
  rw [List.take_of_length_le hbytes.le] at hagree
  rw [List.drop_of_length_le hbytes.le] at hinputs
  have hdrop : rs.drop 4 = q :: rs.drop 5 := by
    obtain ⟨hlt, rfl⟩ := List.getElem?_eq_some_iff.mp hq
    exact List.drop_eq_getElem_cons hlt
  have huN : u.decoder.N = ds.length := by rw [hdu]; exact hN
  have huaddr : u.decoder.addressBuffer = assembled a2 a1 a0 := by rw [hdu]; rfl
  obtain ⟨hstatuses, hreplies⟩ := shows_read_data hcu (hdu ▸ Decoder.addressed_legal ..) (by rw [hdu]; rfl)
    (by rw [hdu]; exact hdir) (hdu ▸ Decoder.addressed_dataRemaining ..) huN hpos
    (by rw [List.length_drop]; omega) (hdrop ▸ hinu) rfl
  have hrunut : u.run ds.length = .next t := (State.run_add hrunu).symm.trans hrunt
  have hacc := hagree.read_made hdir (hN ▸ hpos) (List.ne_nil_of_length_pos hpos)
  rw [hN] at hacc
  refine ⟨u, t, _, hrunu, haccu, rfl, hrunt, hagree.read_over hl hdir hN hpos, hinputs, hacc, fun hf => ⟨?_, ?_⟩, fun hf => ?_⟩
  · exact (hreplies hf).map_drop hrunut hcount
  · rw [hstatuses.map_drop hrunut hcount, accessStatus_of_success _ hf, ← List.replicate_succ, Nat.sub_add_cancel hpos]
  · rw [hstatuses.map_drop hrunut hcount, accessStatus_of_fail _ hf, ← huaddr, ← huN]
    rfl

/-- Settles O43: a stated answer is the one the fifth call meets, and before that call the wire says that no access was made. -/
theorem readTransaction : Obligations.ReadTransaction := by
  intro s h a2 a1 a0 ds rs r rest hc hd hex hread hlen hpos hrs hr hf hin
  have hdir : headerDirection h = .read := (headerDirection_read h).mpr hread
  have hN : clampN (headerSize h).toNat = ds.length := by rw [headerSize_toNat, hlen]; rfl
  obtain ⟨u, t, r', -, -, rfl, hrunt, hdone, hinputs, hacc, hsuccess, -⟩ :=
    readTransactionUnderAnyAnswer s h a2 a1 a0 ds rs (some r) rest hc hd hex hread hlen hpos hrs hr hin
  obtain ⟨hreplies, -⟩ := hsuccess hf
  refine ⟨fun k hk => ?_, ?_, t, hrunt, hdone, hinputs, hacc, hreplies⟩
  · obtain ⟨u, hrun, -, -, hagree⟩ := run_frame_agrees hc hd hex hrs hin (hk.trans (Nat.le_add_right 4 ds.length))
    exact ⟨u, hrun, hagree.no_access_yet ((List.length_take_le ..).trans hk)⟩
  · obtain ⟨v, hrun, -, -, hagree⟩ := run_frame_agrees hc hd hex hrs hin (Nat.add_le_add_left hpos 4)
    have hone : ds.take 1 ≠ [] := List.ne_nil_of_length_pos (by rw [List.length_take]; omega)
    exact ⟨v, hrun, hN ▸ Decoder.Agrees.read_made (ds := ds.take 1) hagree hdir (hN ▸ hpos) hone⟩

end Sys2Proof.Machine
end

section
/-! R180 to R187: the operations after which no access can be made, and any number of bytes in `Done` or in `Confused`. O17, O18, O19
and O41 follow. -/

namespace Sys2Proof.Machine

/-! ### The operations after which no access can be made -/

/-- R14, R180: a declared size of 0 is a clamped size of 0. -/
theorem Decoder.N_of_size_eq_zero {d : Decoder} (hsize : d.header.size = 0) : d.N = 0 := by
  rw [d.N_eq_min, hsize]
  rfl

/-- Settles O17: a declared size of 0 is the row's condition N = 0, and ZDATA's effect is error entry. -/
theorem dataAgainstZeroSizeConfuses : Obligations.DataAgainstZeroSizeConfuses :=
  fun _ b hc hl hst hsize =>
    decode_and_exec_of_selects hc hl (i := .zdata b) rfl rfl ⟨hst, Decoder.N_of_size_eq_zero hsize⟩

/-- Settles O18: the state alone selects DRAIN, whose effect keeps the record. -/
theorem doneDrainsEveryByte : Obligations.DoneDrainsEveryByte :=
  fun _ b hc hl hst => decode_and_exec_of_selects hc hl (i := .drain b) rfl rfl hst

/-- Settles O19: the state alone selects CONF, whose effect keeps the record. -/
theorem confusedDrainsEveryByte : Obligations.ConfusedDrainsEveryByte :=
  fun _ b hc hl hst => decode_and_exec_of_selects hc hl (i := .conf b) rfl rfl hst

/-! ### Any number of bytes in a sink -/

theorem Input.isTransfer_iff {x : Input} : x.isTransfer = true ↔ ∃ b r, x = .transfer b r := by
  cases x <;> simp [Input.isTransfer]

section
variable {s t : State} {rest : List Input}

/-- R187: a step on a byte in a sink completes a call that keeps the record, with status OK and no access. -/
theorem step_of_sink {b : Byte} {r : Option Response} (hc : s.created = true) (hl : s.decoder.legal = true)
    (hsink : s.decoder.state = .done ∨ s.decoder.state = .confused) (hin : s.inputs = .transfer b r :: rest) :
    step s = .next ((s.take rest r).complete b (quietEffect (s.take rest r) s.decoder)) := by
  obtain hst | hst := hsink
  · exact step_of_selects (i := .drain b) hc hin rfl ((selects_iff_decoder_selects ..).mpr ⟨hl, rfl, hst⟩)
  · exact step_of_selects (i := .conf b) hc hin rfl ((selects_iff_decoder_selects ..).mpr ⟨hl, rfl, hst⟩)

/-- R187: a run on bytes alone in a sink keeps the record and shows one exchange per byte, each with status OK and no access. -/
theorem run_of_sink {ins : List Input} (hc : s.created = true) (hl : s.decoder.legal = true)
    (hsink : s.decoder.state = .done ∨ s.decoder.state = .confused) (hin : s.inputs = ins ++ rest)
    (hbytes : ∀ x ∈ ins, x.isTransfer = true) :
    ∃ t xs, s.run ins.length = .next t ∧ t.decoder = s.decoder ∧ t.inputs = rest ∧ t.exchanges = s.exchanges ++ xs ∧
      xs.length = ins.length ∧ ∀ x ∈ xs, x.status = .ok ∧ x.request = none := by
  induction ins generalizing s with
  | nil => exact ⟨s, [], rfl, rfl, hin, (List.append_nil _).symm, rfl, List.forall_mem_nil _⟩
  | cons x ins ih =>
    obtain ⟨hx, hmore⟩ := List.forall_mem_cons.mp hbytes
    obtain ⟨b, r, rfl⟩ := Input.isTransfer_iff.mp hx
    have hstep := step_of_sink hc hl hsink hin
    obtain ⟨t, xs, hrun, hd, hinputs, hshown, hlen, hquiet⟩ :=
      ih (s := (s.take (ins ++ rest) r).complete b (quietEffect (s.take (ins ++ rest) r) s.decoder)) hc hl hsink rfl hmore
    rw [State.exchanges_complete, List.append_assoc] at hshown
    exact ⟨t, _, State.run_succ_eq_next.mpr ⟨_, hstep, hrun⟩, hd, hinputs, hshown, congrArg Nat.succ hlen,
      List.forall_mem_cons.mpr ⟨⟨rfl, rfl⟩, hquiet⟩⟩

/-- Exchanges without a request leave the accesses of the period. -/
theorem accesses_of_quiet {xs : List Exchange} (hshown : t.exchanges = s.exchanges ++ xs)
    (hquiet : ∀ x ∈ xs, x.request = none) : t.accesses = s.accesses := by
  rw [State.accesses, hshown, List.filterMap_append, List.filterMap_eq_nil_iff.mpr hquiet, List.append_nil]
  rfl

end

/-- Settles O41: what the run in the sink shows is one quiet exchange per byte after those shown before. -/
theorem sinksHoldUntilReset : Obligations.SinksHoldUntilReset := by
  intro ins rest s hc hl hsink hin hbytes
  obtain ⟨t, xs, hrun, hd, hinputs, hshown, hlen, hquiet⟩ := run_of_sink hc hl hsink hin (List.all_eq_true.mp hbytes)
  refine ⟨t, hrun, hd, hinputs, accesses_of_quiet hshown fun x hx => (hquiet x hx).2, ?_, fun x hx => ?_⟩
  · rw [hshown, List.length_append, hlen]
  · rw [hshown, List.drop_left] at hx
    exact (hquiet x hx).1

end Sys2Proof.Machine
end

section
/-! R200 to R202: one `reset()` from any record, any number of them in a row, and two machines side by side after one.
O20, O45 and O46 follow. -/

namespace Sys2Proof.Machine

/-! ### One boundary and many -/

/-- R200: RESET is guarded by creation alone. -/
theorem exec_reset {s : State} (hc : s.created = true) : exec .reset s = .next (s.boundary .deselected) := if_pos hc

/-- Settles O20: the boundary's record is R40's, and its frame is the statement's. -/
theorem resetRestoresResetState : Obligations.ResetRestoresResetState := fun _ => exec_reset

/-- R201: a run on `reset()` events alone leaves the reset record and shows their marks. -/
theorem run_deselects {n : Nat} {s : State} {rest : List Input} (hc : s.created = true)
    (hin : s.inputs = List.replicate (n + 1) .deselect ++ rest) :
    ∃ u, s.run (n + 1) = .next u ∧ u.decoder = Decoder.reset ∧
      u.trace = List.replicate (n + 1) .deselected ++ s.trace := by
  induction n generalizing s with
  | zero => exact ⟨_, State.run_succ_eq_next.mpr ⟨_, step_deselect hc hin, rfl⟩, rfl, rfl⟩
  | succ n ih =>
    obtain ⟨u, hrun, hd, htrace⟩ :=
      ih (s := (s.take (List.replicate (n + 1) .deselect ++ rest) none).boundary .deselected) rfl rfl
    refine ⟨u, State.run_succ_eq_next.mpr ⟨_, step_deselect hc hin, hrun⟩, hd, ?_⟩
    rw [htrace, List.replicate_succ' (n := n + 1), List.append_assoc]
    rfl

/-- R39: with a `reset()` as the newest event, the period shows no access. -/
theorem accesses_of_trace_deselected {s : State} {tr : List TraceEntry} (h : s.trace = .deselected :: tr) :
    s.accesses = [] := by
  rw [State.accesses, State.exchanges, h]
  rfl

/-- Settles O45: one `reset()` is the run of length 1 of the same lemma, and the newest mark ends the period. -/
theorem resetIdempotent : Obligations.ResetIdempotent := by
  intro n s rest hc hin
  obtain ⟨t, hrun, hd, -⟩ := run_deselects (n := 0) (rest := List.replicate n .deselect ++ rest) hc hin
  obtain ⟨u, hrun', hd', htrace⟩ := run_deselects hc hin
  exact ⟨t, u, hrun, hrun', hd'.trans hd.symm, hd, htrace, accesses_of_trace_deselected htrace⟩

/-! ### Two machines side by side -/

/-- Where a step of one machine is matched by a step of another, a run is matched by a run of the same length. -/
theorem run_matched {R : State → State → Prop}
    (hmatch : ∀ {s₁ s₂ t₁}, R s₁ s₂ → step s₁ = .next t₁ → ∃ t₂, step s₂ = .next t₂ ∧ R t₁ t₂)
    {k : Nat} {s₁ s₂ t₁ : State} (h : R s₁ s₂) (hrun : s₁.run k = .next t₁) : ∃ t₂, s₂.run k = .next t₂ ∧ R t₁ t₂ := by
  induction k generalizing s₁ s₂ with
  | zero =>
    cases hrun
    exact ⟨s₂, rfl, h⟩
  | succ k ih =>
    obtain ⟨u₁, hstep, hrun⟩ := State.run_succ_eq_next.mp hrun
    obtain ⟨u₂, hstep', hu⟩ := hmatch h hstep
    obtain ⟨t₂, hrun', ht⟩ := ih hu hrun
    exact ⟨t₂, State.run_succ_eq_next.mpr ⟨u₂, hstep', hrun'⟩, ht⟩

/-- Two machines with the same record and the same events to come, whose exchanges of the period look the same to `view`. -/
structure State.Alike {α : Type} (view : Exchange → α) (s₁ s₂ : State) : Prop where
  created : s₁.created = s₂.created
  decoder : s₁.decoder = s₂.decoder
  inputs : s₁.inputs = s₂.inputs
  shown : s₁.exchanges.map view = s₂.exchanges.map view

/-- Two calls on the byte `b` that leave the same record and look the same to `view`. -/
def Effect.Alike {α : Type} (view : Exchange → α) (b : Byte) (e₁ e₂ : Effect) : Prop :=
  e₁.decoder = e₂.decoder ∧ view (e₁.exchange b) = view (e₂.exchange b)

section
variable {α : Type} {view : Exchange → α} {s₁ s₂ t₁ : State} {rest : List Input} {r : Option Response}

theorem State.Alike.take (h : State.Alike view s₁ s₂) : State.Alike view (s₁.take rest r) (s₂.take rest r) :=
  ⟨h.created, h.decoder, rfl, h.shown⟩

/-- R200, R202: a boundary makes any two machines alike that have the same events to come. -/
theorem State.Alike.of_deselected (hin : s₁.inputs = s₂.inputs) :
    State.Alike view (s₁.boundary .deselected) (s₂.boundary .deselected) :=
  ⟨rfl, rfl, hin, rfl⟩

theorem State.Alike.of_created (hin : s₁.inputs = s₂.inputs) :
    State.Alike view (s₁.boundary .created) (s₂.boundary .created) :=
  ⟨rfl, rfl, hin, rfl⟩

theorem State.Alike.complete {b : Byte} {e₁ e₂ : Effect} (h : State.Alike view s₁ s₂) (he : Effect.Alike view b e₁ e₂) :
    State.Alike view (s₁.complete b e₁) (s₂.complete b e₂) := by
  obtain ⟨hd, hview⟩ := he
  refine ⟨h.created, hd, h.inputs, ?_⟩
  rw [State.exchanges_complete, State.exchanges_complete, List.map_append, List.map_append, h.shown]
  exact congrArg (s₂.exchanges.map view ++ [·]) hview

/-- R92: selection looks at the record alone. -/
theorem State.Alike.selects (h : State.Alike view s₁ s₂) {i : Instr} (hsel : s₁.selects i = true) : s₂.selects i = true := by
  rw [State.selects, ← h.decoder]
  exact hsel

/-- R202: a step of one of two machines alike is matched by a step of the other, where the call it may complete is. -/
theorem step_alike (h : State.Alike view s₁ s₂)
    (hcall : ∀ b r rest i, s₁.inputs = .transfer b r :: rest →
      Effect.Alike view b ((s₁.take rest r).effect i) ((s₂.take rest r).effect i))
    (hstep : step s₁ = .next t₁) :
    ∃ t₂, step s₂ = .next t₂ ∧ State.Alike view t₁ t₂ ∧ (s₁.draws = s₂.draws → t₁.draws = t₂.draws) := by
  obtain ⟨hin, rfl⟩ | ⟨rest, hin, hc, rfl⟩ | ⟨rest, hin, rfl⟩ | ⟨b, r, rest, i, hin, hc, -, hd, hexec⟩ :=
    step_next_cases s₁ t₁ hstep
  · have hstep' : step s₂ = .next s₂ := by rw [step, fetch, ← h.inputs, hin]
    exact ⟨s₂, hstep', h, id⟩
  · exact ⟨_, step_deselect (h.created ▸ hc) (h.inputs ▸ hin), .of_deselected rfl, id⟩
  · exact ⟨_, (stepRunsBoundaryEvents s₂ rest).2 (h.inputs ▸ hin), .of_created rfl, id⟩
  · obtain ⟨henc, -⟩ := decode_sound hd
    rw [exec_eq_transfer henc, State.transfer_eq_next] at hexec
    obtain ⟨-, hsel, rfl⟩ := hexec
    exact ⟨_, step_of_selects (h.created ▸ hc) (h.inputs ▸ hin) henc (h.selects hsel),
      h.take.complete (hcall b r rest i hin), congrArg (· + 1)⟩

end

/-- R20, R55, R107: a call's effect is a function of the record, the answer and the draw. -/
theorem effect_congr {s t : State} (hd : s.decoder = t.decoder) (hr : s.rsp = t.rsp) (hn : s.draws = t.draws) (i : Instr) :
    s.effect i = t.effect i := by
  obtain ⟨d, _, _, q, n, _⟩ := s
  obtain ⟨d', _, _, q', n', _⟩ := t
  obtain rfl : d = d' := hd
  obtain rfl : q = q' := hr
  obtain rfl : n = n' := hn
  cases i <;> rfl

/-- What of an exchange no don't-care draw reaches: the byte, the status and the access. -/
def Exchange.withoutReply (x : Exchange) : Byte × Status × Option Access := (x.incoming, x.status, x.request)

/-- R107: with the same stated answer, the calls of one record are alike but for the reply. -/
theorem effect_alike_of_stated {s t : State} {r : Response} (hd : s.decoder = t.decoder) (hs : s.rsp = some r)
    (ht : t.rsp = some r) (i : Instr) (b : Byte) :
    Effect.Alike Exchange.withoutReply b (s.effect i) (t.effect i) := by
  rw [effect_congr (t := { t with draws := s.draws }) hd (hs.trans ht.symm) rfl]
  obtain ⟨hdecoder, hstatus, hrequest⟩ := effect_of_draws ht s.draws i
  exact ⟨hdecoder, congrArg₂ (fun st q => (b, st, q)) hstatus hrequest⟩

/-- R67: a step leaves none to come but events that were. -/
theorem answered_of_step {s t : State} (h : step s = .next t) (hall : s.inputs.all Input.answered = true) :
    t.inputs.all Input.answered = true := by
  obtain ⟨-, hinputs⟩ := step_replies h
  rw [List.all_eq_true] at hall ⊢
  exact fun x hx => hall x (List.mem_of_mem_drop (hinputs ▸ hx))

section
variable {s₁ s₂ t₁ : State}

/-- R107, R202: with every answer stated, machines alike but for the replies stay so, whatever the draws. -/
theorem step_alike_of_answered
    (h : State.Alike Exchange.withoutReply s₁ s₂ ∧ s₁.inputs.all Input.answered = true) (hstep : step s₁ = .next t₁) :
    ∃ t₂, step s₂ = .next t₂ ∧
      State.Alike Exchange.withoutReply t₁ t₂ ∧ t₁.inputs.all Input.answered = true := by
  obtain ⟨halike, hall⟩ := h
  have hcall : ∀ b r rest i, s₁.inputs = .transfer b r :: rest →
      Effect.Alike Exchange.withoutReply b ((s₁.take rest r).effect i) ((s₂.take rest r).effect i) := by
    intro b r rest i hin
    rw [hin, List.all_cons, Bool.and_eq_true] at hall
    obtain ⟨a, rfl⟩ := Option.isSome_iff_exists.mp hall.1
    exact effect_alike_of_stated (s := s₁.take rest (some a)) (t := s₂.take rest (some a)) halike.decoder rfl rfl i b
  obtain ⟨t₂, hstep', ht, -⟩ := step_alike halike hcall hstep
  exact ⟨t₂, hstep', ht, answered_of_step hstep hall⟩

/-- R202: with the same draws, machines alike stay so, the replies with them. -/
theorem step_alike_of_draws (h : State.Alike id s₁ s₂ ∧ s₁.draws = s₂.draws) (hstep : step s₁ = .next t₁) :
    ∃ t₂, step s₂ = .next t₂ ∧ State.Alike id t₁ t₂ ∧ t₁.draws = t₂.draws := by
  obtain ⟨halike, hn⟩ := h
  have hcall : ∀ b r rest i, s₁.inputs = .transfer b r :: rest →
      Effect.Alike id b ((s₁.take rest r).effect i) ((s₂.take rest r).effect i) := by
    intro b r rest i _
    rw [effect_congr (s := s₁.take rest r) (t := s₂.take rest r) halike.decoder rfl hn]
    exact ⟨rfl, rfl⟩
  obtain ⟨t₂, hstep', ht, hdraws⟩ := step_alike halike hcall hstep
  exact ⟨t₂, hstep', ht, hdraws hn⟩

end

/-- Settles O46: RESET makes the two machines alike, and they stay so step by step, in what the answers and the draws determine. -/
theorem noLeakageAcrossReset : Obligations.NoLeakageAcrossReset := by
  intro s₁ s₂ u₁ u₂ hc₁ hc₂ hin hu₁ hu₂ k t₁ hrun
  obtain rfl : s₁.boundary .deselected = u₁ := Host.Outcome.next.inj ((exec_reset hc₁).symm.trans hu₁)
  obtain rfl : s₂.boundary .deselected = u₂ := Host.Outcome.next.inj ((exec_reset hc₂).symm.trans hu₂)
  refine ⟨fun hall => ?_, fun hn => ?_⟩
  · obtain ⟨t₂, hrun', ht, -⟩ := run_matched step_alike_of_answered ⟨.of_deselected hin, hall⟩ hrun
    exact ⟨t₂, hrun', ht.decoder, ht.inputs, ht.shown⟩
  · obtain ⟨t₂, hrun', ht, -⟩ := run_matched step_alike_of_draws ⟨.of_deselected hin, hn⟩ hrun
    exact ⟨t₂, hrun', ht.decoder, ht.inputs, by simpa using ht.shown⟩

end Sys2Proof.Machine
end

section
/-! R220 to R227: the status a call shows, and the one way into each error. With them the inputs on which no call is made.
O25, O31, O32 and O33 follow. -/

namespace Sys2Proof.Machine

/-! ### The status of a call -/

/-- R100: an exchange in front of the trace is the one call of an operation on a byte, with its effect. -/
theorem exchange_of_exec_of_trace {s t : State} {i : Instr} {x : Exchange} (h : exec i s = .next t)
    (htrace : t.trace = .exchange x :: s.trace) : ∃ b, encode i = .transfer b ∧ x = (s.effect i).exchange b := by
  obtain ⟨-, -, rfl⟩ | ⟨-, rfl⟩ | ⟨b, -, hb, -⟩ := exec_next_cases i s t h
  · cases htrace
  · cases htrace
  · rw [exec_eq_transfer hb, State.transfer_eq_next] at h
    obtain ⟨-, -, rfl⟩ := h
    cases htrace
    exact ⟨b, hb, rfl⟩

theorem trace_of_exec_reset {s t : State} (h : exec .reset s = .next t) : t.trace = .deselected :: s.trace := by
  obtain ⟨-, -, rfl⟩ | ⟨hi, -⟩ | ⟨_, _, hb, -⟩ := exec_next_cases .reset s t h
  · rfl
  · cases hi
  · cases hb

/-- Settles O31: the exchange shows the status of the operation's effect; a boundary operation stands for no byte. -/
theorem statusByOperation : Obligations.StatusByOperation := by
  refine ⟨fun s t i x h htrace => ?_, fun _ _ => trace_of_exec_reset⟩
  obtain ⟨b, hb, rfl⟩ := exchange_of_exec_of_trace h htrace
  cases i
  case wdataLast => rfl
  case rdataFirst c => exact effect_rdataFirst_status s c
  case reset => cases hb
  case init => cases hb
  all_goals rfl

/-- Settles O32: constructor by constructor. -/
theorem statusCodes : Obligations.StatusCodes :=
  ⟨rfl, fun _ => rfl, fun _ _ _ => rfl, fun
    | .ok => (by decide : (0 : BitVec 2) ≠ 3)
    | .violation _ => (by decide : (1 : BitVec 2) ≠ 3)
    | .collabFault _ _ _ => (by decide : (2 : BitVec 2) ≠ 3)⟩

/-! ### Error entry -/

theorem accessStatus_eq_collabFault_iff {q : Access} {r : Response} {k : Direction} {a : Address} {n : Nat} :
    accessStatus q r = .collabFault k a n ↔ r.fail = true ∧ q.kind = k ∧ q.addr = a ∧ q.width = n := by
  cases hf : r.fail
  · simp [accessStatus_of_success q hf]
  · simp [accessStatus_of_fail q hf]

/-- R221, R222: an access is answered, well or badly; it violates no protocol. -/
theorem accessStatus_ne_violation {q : Access} {r : Response} {c : ViolationCause} : accessStatus q r ≠ .violation c := by
  cases hf : r.fail
  · simp [accessStatus_of_success q hf]
  · simp [accessStatus_of_fail q hf]

section
variable {s : State} {i : Instr} {a : Address} {n : Nat}

/-- R221, R227: an effect reports a violation by raising it. -/
theorem effect_of_violation {c : ViolationCause} (h : (s.effect i).status = .violation c) :
    s.effect i = raiseProtocolViolation s c := by
  cases i
  case zdata =>
    obtain rfl := Status.violation.inj h
    rfl
  case wdataLast => exact absurd h accessStatus_ne_violation
  case rdataFirst b =>
    rw [effect_rdataFirst_status] at h
    exact absurd h accessStatus_ne_violation
  all_goals cases h

/-- R222, R227: an effect that reports a failed read is the end of that read on the record as it was. -/
theorem effect_of_read_fault (h : (s.effect i).status = .collabFault .read a n) :
    s.effect i = accessEffect s (.read a n) s.decoder := by
  cases i
  case rdataFirst b =>
    rw [effect_rdataFirst_status, accessStatus_eq_collabFault_iff] at h
    obtain ⟨hf, -, rfl, rfl⟩ := h
    exact effect_rdataFirst_of_fail b hf
  case wdataLast =>
    obtain ⟨-, hkind, -⟩ := accessStatus_eq_collabFault_iff.mp h
    cases hkind
  all_goals cases h

/-- R141, R222, R227: an effect that reports a failed write is the end of that write on the record with the last byte stored. -/
theorem effect_of_write_fault (h : (s.effect i).status = .collabFault .write a n) :
    ∃ b v, s.effect i = accessEffect s (.write a n v) (s.decoder.acceptData b) := by
  cases i
  case wdataLast b =>
    obtain ⟨-, -, rfl, rfl⟩ := accessStatus_eq_collabFault_iff.mp h
    exact ⟨b, _, rfl⟩
  case rdataFirst =>
    rw [effect_rdataFirst_status, accessStatus_eq_collabFault_iff] at h
    obtain ⟨-, hkind, -⟩ := h
    cases hkind
  all_goals cases h

end

/-- Settles O33: each error has one effect that reports it, whose record and request are the statement's. -/
theorem errorEntryWritesNothingElse : Obligations.ErrorEntryWritesNothingElse := by
  intro s t i x h htrace
  obtain ⟨b, -, rfl⟩ := exchange_of_exec_of_trace h htrace
  rw [decoder_of_exec h]
  refine ⟨fun c hstatus => ?_, fun a n hstatus => ?_, fun a n hstatus => ?_⟩
  · rw [effect_of_violation hstatus]
    exact ⟨rfl, rfl⟩
  · rw [effect_of_read_fault hstatus]
    exact ⟨rfl, rfl⟩
  · obtain ⟨c, v, he⟩ := effect_of_write_fault hstatus
    rw [he]
    exact ⟨rfl, v, rfl⟩

/-! ### Inputs on which no call is made -/

/-- R262: before creation there is nothing to reset. -/
theorem exec_reset_of_not_created {s : State} (hc : s.created = false) : exec .reset s = .refused .notCreated :=
  if_neg (Bool.eq_false_iff.mp hc)

theorem fetchTransfer_of_not_created {s : State} (hc : s.created = false) (rest : List Input) (b : Byte)
    (r : Option Response) : fetchTransfer s rest b r = .refuse .notCreated :=
  if_neg (Bool.eq_false_iff.mp hc)

/-- Settles O25: nothing is fetched, the fetch refuses, or RESET does. -/
theorem stepOutsideAnEvent : Obligations.StepOutsideAnEvent := by
  refine fun s rest => ⟨fun hin => ?_, fun hin => ?_, fun hc b r hin => ?_, fun hc hin => ?_⟩
  · have hfetch : fetch s = .quiet := by rw [fetch, hin]
    rw [step, hfetch]
  · have hfetch : fetch s = .refuse .overlapping := by rw [fetch, hin]
    rw [step, hfetch]
  · have hfetch : fetch s = .refuse .notCreated := by rw [fetch, hin]; exact fetchTransfer_of_not_created hc rest b r
    rw [step, hfetch]
  · rw [(stepRunsBoundaryEvents s rest).1 hin]
    exact exec_reset_of_not_created hc

end Sys2Proof.Machine
end

section
/-! R260, R261: creation beside `reset()`. O21 follows. -/

namespace Sys2Proof.Machine

/-- R260, R261: INIT has no guard: it is the boundary with creation's mark, from any state. -/
theorem exec_init (s : State) : exec .init s = .next (s.boundary .created) := rfl

/-- Settles O21: INIT and RESET are one boundary with different marks, and a boundary's record depends on neither the mark nor the state. -/
theorem creationGivesResetState : Obligations.CreationGivesResetState := by
  refine fun s => ⟨exec_init s, fun hc => ⟨_, _, exec_init s, exec_reset hc, ?_⟩⟩
  rw [State.boundary_decoder, State.boundary_decoder]

end Sys2Proof.Machine
end
